-- ==== Sys2Proof/Word.lean ====
section
/-! DEFINITION. The widths of R6: a memory cell and every data register hold a byte, the program
counter and an address hold a 16-bit word, a bit number has 3 bits and a TCALL table number 4
(R51, R56). -/

namespace Sys2Proof

/-- A memory cell, a data register, an operand byte of an instruction (R6). -/
abbrev Byte := BitVec 8

/-- An address, the program counter, the pair YA (R6, R12). -/
abbrev Word := BitVec 16

/-- The number of a bit in a byte: bit 0 is the least significant (R8). -/
abbrev BitNo := BitVec 3

/-- The table number of TCALL, 0 to 15 (R94). -/
abbrev TableNo := BitVec 4

end Sys2Proof
end

