-- ==== Sys2Proof/Machine/Bits.lean ====
section
/-! DEFINITION. Bit fields, byte order and sign extension, once (R8, R9, R34, R55). -/

namespace Sys2Proof.Machine

/-- `{hi, lo}`: the 16-bit value of a memory pair or of two operand bytes (R9, R34). -/
def mkWord (hi lo : Byte) : Word := hi ++ lo

/-- Bits 7 to 0 of a word. -/
def loByte (w : Word) : Byte := w.extractLsb' 0 8

/-- Bits 15 to 8 of a word. -/
def hiByte (w : Word) : Byte := w.extractLsb' 8 8

/-- A byte as an unsigned 16-bit number. -/
def zext16 (v : Byte) : Word := v.zeroExtend 16

/-- `sext_8`: a displacement byte read as two's complement (R9, R55). -/
def sext16 (v : Byte) : Word := v.signExtend 16

/-- Bit `b` of a byte. -/
def bitOf (v : Byte) (b : BitNo) : Bool := v.getLsbD b.toNat

/-- The byte whose only set bit is `b`: `1 << b`. -/
def bitMask (b : BitNo) : Byte := 1#8 <<< b.toNat

/-- A byte with bit `b` set (R175, R176). -/
def withBitSet (v : Byte) (b : BitNo) : Byte := v ||| bitMask b

/-- A byte with bit `b` cleared (R163, R164). -/
def withBitClear (v : Byte) (b : BitNo) : Byte := v &&& ~~~(bitMask b)

/-- The 16-bit address of a 12-bit `M.bit` operand: `{0000b, op2[3:0], lo}` (R57, R91). -/
def mbitAddr (op2 lo : Byte) : Word := mkWord (op2 &&& 0x0F) lo

/-- The bit number in bits 7 to 5 of an operand byte (R56, R57). -/
def upperBitNo (v : Byte) : BitNo := v.extractLsb' 5 3

/-- Byte 2 of an `M.bit` instruction: bit number, reversal, address bits 11 to 8 (R51, R57). -/
def mbitOperand (b : BitNo) (rev : Bool) (addr : Word) : Byte :=
  b ++ BitVec.ofBool rev ++ addr.extractLsb' 8 4

end Sys2Proof.Machine
end

