-- ==== Sys2Proof/Config.lean ====
section
/-! DEFINITION. What an implementation fixes (the named parameters of R7 that the spec leaves OPEN) and
the free values behind the spec's `draw(n)` (R9). An `opaque` constant has no body, so nothing proved
about the model rests on its value. -/

namespace Sys2Proof

/-- The two values of the parameter PAIR_WRAP (R36, D2): where the high byte of a direct-page pair lies
when its offset is `FFh`. -/
inductive PairWrap
  /-- at offset `00h` of the same page -/
  | inPage
  /-- at the next address, in the page above -/
  | linear
  deriving DecidableEq, Repr, Inhabited

/-- PAIR_WRAP, OPEN (R36, D2). DESIGN CHOICE, safe: the model runs the instruction under either value
instead of refusing offset `FFh` (log 5). -/
opaque Config.pairWrap : PairWrap

/-- The n-th free bit: the value of a `draw(1)` (R9), applied to the counter `State.draws`. DESIGN
CHOICE, safe (log 6). -/
opaque Config.freeBit : Nat → Bool

/-- The n-th free byte: the value of a `draw(8)` (R9), applied to the counter `State.draws`. DESIGN
CHOICE, safe (log 6). -/
opaque Config.freeByte : Nat → Byte

/-- What a cell that memory does not list reads as. The spec leaves RAM unspecified after power-on
(R250): DESIGN CHOICE, unsafe (log 2). -/
def Config.unlistedByte : Byte := 0x00

/-- A, X, Y and SP right after reset. The spec leaves them unspecified (R20, R250): DESIGN CHOICE,
unsafe (log 1). -/
def Config.registerAtReset : Byte := 0x00

end Sys2Proof
end

