-- ==== Sys2Proof/Syntax.lean ====
section
/-! DEFINITION. The instructions: one constructor for each of the 202 rows of spec/opcode_table.json, in
the table's order. Each docstring gives the assembler form, the rule of its meaning and of its operand.
The operand fields have the widths of R51 to R57; an `M.bit` address is a 16-bit address that
`Instr.wellFormed` bounds to `0FFFh` (R91). -/

namespace Sys2Proof

/-- An instruction of the G8MC core (R58). -/
inductive Instr
  /-- `ADC #imm`: R100, R73 -/
  | adcImm (imm : Byte)
  /-- `ADC dp`: R100, R74 -/
  | adcDp (dp : Byte)
  /-- `ADC dp+X`: R100, R76 -/
  | adcDpX (dp : Byte)
  /-- `ADC !abs`: R100, R75 -/
  | adcAbs (addr : Word)
  /-- `ADC {X}`: R100, R79 -/
  | adcIndX
  /-- `ADC !abs+Y`: R100, R78 -/
  | adcAbsY (addr : Word)
  /-- `ADC [dp+X]`: R100, R82 -/
  | adcIndDpX (dp : Byte)
  /-- `ADC [dp]+Y`: R100, R83 -/
  | adcIndDpY (dp : Byte)
  /-- `SBC #imm`: R118, R73 -/
  | sbcImm (imm : Byte)
  /-- `SBC dp`: R118, R74 -/
  | sbcDp (dp : Byte)
  /-- `SBC dp+X`: R118, R76 -/
  | sbcDpX (dp : Byte)
  /-- `SBC !abs`: R118, R75 -/
  | sbcAbs (addr : Word)
  /-- `SBC {X}`: R118, R79 -/
  | sbcIndX
  /-- `SBC !abs+Y`: R118, R78 -/
  | sbcAbsY (addr : Word)
  /-- `SBC [dp+X]`: R118, R82 -/
  | sbcIndDpX (dp : Byte)
  /-- `SBC [dp]+Y`: R118, R83 -/
  | sbcIndDpY (dp : Byte)
  /-- `CMP #imm`: R103, R73 -/
  | cmpImm (imm : Byte)
  /-- `CMP dp`: R103, R74 -/
  | cmpDp (dp : Byte)
  /-- `CMP dp+X`: R103, R76 -/
  | cmpDpX (dp : Byte)
  /-- `CMP !abs`: R103, R75 -/
  | cmpAbs (addr : Word)
  /-- `CMP {X}`: R103, R79 -/
  | cmpIndX
  /-- `CMP !abs+Y`: R103, R78 -/
  | cmpAbsY (addr : Word)
  /-- `CMP [dp+X]`: R103, R82 -/
  | cmpIndDpX (dp : Byte)
  /-- `CMP [dp]+Y`: R103, R83 -/
  | cmpIndDpY (dp : Byte)
  /-- `OR #imm`: R115, R73 -/
  | orImm (imm : Byte)
  /-- `OR dp`: R115, R74 -/
  | orDp (dp : Byte)
  /-- `OR dp+X`: R115, R76 -/
  | orDpX (dp : Byte)
  /-- `OR !abs`: R115, R75 -/
  | orAbs (addr : Word)
  /-- `OR {X}`: R115, R79 -/
  | orIndX
  /-- `OR !abs+Y`: R115, R78 -/
  | orAbsY (addr : Word)
  /-- `OR [dp+X]`: R115, R82 -/
  | orIndDpX (dp : Byte)
  /-- `OR [dp]+Y`: R115, R83 -/
  | orIndDpY (dp : Byte)
  /-- `AND #imm`: R101, R73 -/
  | andImm (imm : Byte)
  /-- `AND dp`: R101, R74 -/
  | andDp (dp : Byte)
  /-- `AND dp+X`: R101, R76 -/
  | andDpX (dp : Byte)
  /-- `AND !abs`: R101, R75 -/
  | andAbs (addr : Word)
  /-- `AND {X}`: R101, R79 -/
  | andIndX
  /-- `AND !abs+Y`: R101, R78 -/
  | andAbsY (addr : Word)
  /-- `AND [dp+X]`: R101, R82 -/
  | andIndDpX (dp : Byte)
  /-- `AND [dp]+Y`: R101, R83 -/
  | andIndDpY (dp : Byte)
  /-- `EOR #imm`: R111, R73 -/
  | eorImm (imm : Byte)
  /-- `EOR dp`: R111, R74 -/
  | eorDp (dp : Byte)
  /-- `EOR dp+X`: R111, R76 -/
  | eorDpX (dp : Byte)
  /-- `EOR !abs`: R111, R75 -/
  | eorAbs (addr : Word)
  /-- `EOR {X}`: R111, R79 -/
  | eorIndX
  /-- `EOR !abs+Y`: R111, R78 -/
  | eorAbsY (addr : Word)
  /-- `EOR [dp+X]`: R111, R82 -/
  | eorIndDpX (dp : Byte)
  /-- `EOR [dp]+Y`: R111, R83 -/
  | eorIndDpY (dp : Byte)
  /-- `LDA #imm`: R130, R73 -/
  | ldaImm (imm : Byte)
  /-- `LDA dp`: R130, R74 -/
  | ldaDp (dp : Byte)
  /-- `LDA dp+X`: R130, R76 -/
  | ldaDpX (dp : Byte)
  /-- `LDA !abs`: R130, R75 -/
  | ldaAbs (addr : Word)
  /-- `LDA {X}`: R130, R79 -/
  | ldaIndX
  /-- `LDA !abs+Y`: R130, R78 -/
  | ldaAbsY (addr : Word)
  /-- `LDA [dp+X]`: R130, R82 -/
  | ldaIndDpX (dp : Byte)
  /-- `LDA [dp]+Y`: R130, R83 -/
  | ldaIndDpY (dp : Byte)
  /-- `STA dp`: R134, R74 -/
  | staDp (dp : Byte)
  /-- `STA dp+X`: R134, R76 -/
  | staDpX (dp : Byte)
  /-- `STA !abs`: R134, R75 -/
  | staAbs (addr : Word)
  /-- `STA {X}`: R134, R79 -/
  | staIndX
  /-- `STA !abs+Y`: R134, R78 -/
  | staAbsY (addr : Word)
  /-- `STA [dp+X]`: R134, R82 -/
  | staIndDpX (dp : Byte)
  /-- `STA [dp]+Y`: R134, R83 -/
  | staIndDpY (dp : Byte)
  /-- `LDM dp,#imm`: R131, R95 -/
  | ldm (imm : Byte) (dp : Byte)
  /-- `LDA {X}+`: R130, R80 -/
  | ldaIndXInc
  /-- `STA {X}+`: R134, R80 -/
  | staIndXInc
  /-- `ASL A`: R102, R71 -/
  | aslA
  /-- `ASL dp`: R102, R74 -/
  | aslDp (dp : Byte)
  /-- `ASL !abs`: R102, R75 -/
  | aslAbs (addr : Word)
  /-- `ASL dp+X`: R102, R76 -/
  | aslDpX (dp : Byte)
  /-- `ROL A`: R116, R71 -/
  | rolA
  /-- `ROL dp`: R116, R74 -/
  | rolDp (dp : Byte)
  /-- `ROL !abs`: R116, R75 -/
  | rolAbs (addr : Word)
  /-- `ROL dp+X`: R116, R76 -/
  | rolDpX (dp : Byte)
  /-- `LSR A`: R113, R71 -/
  | lsrA
  /-- `LSR dp`: R113, R74 -/
  | lsrDp (dp : Byte)
  /-- `LSR !abs`: R113, R75 -/
  | lsrAbs (addr : Word)
  /-- `LSR dp+X`: R113, R76 -/
  | lsrDpX (dp : Byte)
  /-- `ROR A`: R117, R71 -/
  | rorA
  /-- `ROR dp`: R117, R74 -/
  | rorDp (dp : Byte)
  /-- `ROR !abs`: R117, R75 -/
  | rorAbs (addr : Word)
  /-- `ROR dp+X`: R117, R76 -/
  | rorDpX (dp : Byte)
  /-- `INC A`: R112, R71 -/
  | incA
  /-- `INC dp`: R112, R74 -/
  | incDp (dp : Byte)
  /-- `INC !abs`: R112, R75 -/
  | incAbs (addr : Word)
  /-- `INC dp+X`: R112, R76 -/
  | incDpX (dp : Byte)
  /-- `DEC A`: R109, R71 -/
  | decA
  /-- `DEC dp`: R109, R74 -/
  | decDp (dp : Byte)
  /-- `DEC !abs`: R109, R75 -/
  | decAbs (addr : Word)
  /-- `DEC dp+X`: R109, R76 -/
  | decDpX (dp : Byte)
  /-- `INC X`: R112, R71 -/
  | incX
  /-- `DEC X`: R109, R71 -/
  | decX
  /-- `INC Y`: R112, R71 -/
  | incY
  /-- `DEC Y`: R109, R71 -/
  | decY
  /-- `LDY #imm`: R133, R73 -/
  | ldyImm (imm : Byte)
  /-- `LDY dp`: R133, R74 -/
  | ldyDp (dp : Byte)
  /-- `LDY !abs`: R133, R75 -/
  | ldyAbs (addr : Word)
  /-- `LDY dp+X`: R133, R76 -/
  | ldyDpX (dp : Byte)
  /-- `STY dp`: R136, R74 -/
  | styDp (dp : Byte)
  /-- `STY !abs`: R136, R75 -/
  | styAbs (addr : Word)
  /-- `STY dp+X`: R136, R76 -/
  | styDpX (dp : Byte)
  /-- `LDX #imm`: R132, R73 -/
  | ldxImm (imm : Byte)
  /-- `LDX dp`: R132, R74 -/
  | ldxDp (dp : Byte)
  /-- `LDX dp+Y`: R132, R77 -/
  | ldxDpY (dp : Byte)
  /-- `LDX !abs`: R132, R75 -/
  | ldxAbs (addr : Word)
  /-- `STX dp`: R135, R74 -/
  | stxDp (dp : Byte)
  /-- `STX dp+Y`: R135, R77 -/
  | stxDpY (dp : Byte)
  /-- `STX !abs`: R135, R75 -/
  | stxAbs (addr : Word)
  /-- `CMPX #imm`: R104, R73 -/
  | cmpxImm (imm : Byte)
  /-- `CMPX dp`: R104, R74 -/
  | cmpxDp (dp : Byte)
  /-- `CMPX !abs`: R104, R75 -/
  | cmpxAbs (addr : Word)
  /-- `CMPY #imm`: R105, R73 -/
  | cmpyImm (imm : Byte)
  /-- `CMPY dp`: R105, R74 -/
  | cmpyDp (dp : Byte)
  /-- `CMPY !abs`: R105, R75 -/
  | cmpyAbs (addr : Word)
  /-- `BIT dp`: R162, R74 -/
  | bitDp (dp : Byte)
  /-- `BIT !abs`: R162, R75 -/
  | bitAbs (addr : Word)
  /-- `COM dp`: R106, R74 -/
  | com (dp : Byte)
  /-- `TST dp`: R119, R74 -/
  | tst (dp : Byte)
  /-- `TSET1 !abs`: R181, R75 -/
  | tset1 (addr : Word)
  /-- `TCLR1 !abs`: R180, R75 -/
  | tclr1 (addr : Word)
  /-- `DBNE dp,rel`: R203, R88 -/
  | dbneDp (dp : Byte) (rel : Byte)
  /-- `DBNE Y,rel`: R203, R88 -/
  | dbneY (rel : Byte)
  /-- `CBNE dp,rel`: R202, R88 -/
  | cbneDp (dp : Byte) (rel : Byte)
  /-- `CBNE dp+X,rel`: R202, R88 -/
  | cbneDpX (dp : Byte) (rel : Byte)
  /-- `XMA dp`: R145, R74 -/
  | xmaDp (dp : Byte)
  /-- `XMA dp+X`: R145, R76 -/
  | xmaDpX (dp : Byte)
  /-- `XMA {X}`: R145, R79 -/
  | xmaIndX
  /-- `POP A`: R214, R71 -/
  | popA
  /-- `POP X`: R214, R71 -/
  | popX
  /-- `POP Y`: R214, R71 -/
  | popY
  /-- `POP PSW`: R214, R71 -/
  | popPsw
  /-- `PUSH A`: R215, R71 -/
  | pushA
  /-- `PUSH X`: R215, R71 -/
  | pushX
  /-- `PUSH Y`: R215, R71 -/
  | pushY
  /-- `PUSH PSW`: R215, R71 -/
  | pushPsw
  /-- `TXSP`: R141, R71 -/
  | txsp
  /-- `TSPX`: R139, R71 -/
  | tspx
  /-- `XCN`: R120, R71 -/
  | xcn
  /-- `XAX`: R143, R71 -/
  | xax
  /-- `XAY`: R144, R71 -/
  | xay
  /-- `XYX`: R146, R71 -/
  | xyx
  /-- `BRK`: R210, R71 -/
  | brk
  /-- `RET`: R216, R71 -/
  | ret
  /-- `DAS`: R108, R71 -/
  | das
  /-- `STOP`: R218, R71 -/
  | stop
  /-- `RETI`: R217, R71 -/
  | reti
  /-- `TAY`: R138, R71 -/
  | tay
  /-- `TYA`: R142, R71 -/
  | tya
  /-- `DAA`: R107, R71 -/
  | daa
  /-- `NOP`: R213, R71 -/
  | nop
  /-- `CLRC`: R165, R71 -/
  | clrc
  /-- `CLRG`: R166, R71 -/
  | clrg
  /-- `DI`: R211, R71 -/
  | di
  /-- `CLRV`: R167, R71 -/
  | clrv
  /-- `SETC`: R177, R71 -/
  | setc
  /-- `SETG`: R178, R71 -/
  | setg
  /-- `EI`: R212, R71 -/
  | ei
  /-- `TXA`: R140, R71 -/
  | txa
  /-- `TAX`: R137, R71 -/
  | tax
  /-- `MUL`: R114, R71 -/
  | mul
  /-- `DIV`: R110, R71 -/
  | div
  /-- `BRA rel`: R198, R85 -/
  | bra (rel : Byte)
  /-- `BPL rel`: R197, R85 -/
  | bpl (rel : Byte)
  /-- `BVC rel`: R199, R85 -/
  | bvc (rel : Byte)
  /-- `BCC rel`: R192, R85 -/
  | bcc (rel : Byte)
  /-- `BNE rel`: R196, R85 -/
  | bne (rel : Byte)
  /-- `BMI rel`: R195, R85 -/
  | bmi (rel : Byte)
  /-- `BVS rel`: R200, R85 -/
  | bvs (rel : Byte)
  /-- `BCS rel`: R193, R85 -/
  | bcs (rel : Byte)
  /-- `BEQ rel`: R194, R85 -/
  | beq (rel : Byte)
  /-- `PCALL upage`: R205, R93 -/
  | pcall (u : Byte)
  /-- `JMP !abs`: R204, R75 -/
  | jmpAbs (addr : Word)
  /-- `JMP [!abs]`: R204, R84 -/
  | jmpIndAbs (addr : Word)
  /-- `JMP [dp]`: R204, R81 -/
  | jmpIndDp (dp : Byte)
  /-- `CALL !abs`: R201, R75 -/
  | callAbs (addr : Word)
  /-- `CALL [dp]`: R201, R81 -/
  | callIndDp (dp : Byte)
  /-- `ADDW dp`: R150, R92 -/
  | addw (dp : Byte)
  /-- `SUBW dp`: R156, R92 -/
  | subw (dp : Byte)
  /-- `CMPW dp`: R151, R92 -/
  | cmpw (dp : Byte)
  /-- `LDYA dp`: R154, R92 -/
  | ldya (dp : Byte)
  /-- `INCW dp`: R153, R92 -/
  | incw (dp : Byte)
  /-- `DECW dp`: R152, R92 -/
  | decw (dp : Byte)
  /-- `STYA dp`: R155, R92 -/
  | stya (dp : Byte)
  /-- `SET1 dp.bit`: R175, R90 -/
  | set1 (b : BitNo) (dp : Byte)
  /-- `CLR1 dp.bit`: R163, R90 -/
  | clr1 (b : BitNo) (dp : Byte)
  /-- `BBS A.bit,rel`: R191, R86 -/
  | bbsA (b : BitNo) (rel : Byte)
  /-- `BBS dp.bit,rel`: R191, R87 -/
  | bbsDp (b : BitNo) (dp : Byte) (rel : Byte)
  /-- `BBC A.bit,rel`: R190, R86 -/
  | bbcA (b : BitNo) (rel : Byte)
  /-- `BBC dp.bit,rel`: R190, R87 -/
  | bbcDp (b : BitNo) (dp : Byte) (rel : Byte)
  /-- `TCALL n`: R206, R94 -/
  | tcall (n : TableNo)
  /-- `SETA1 A.bit`: R176, R89 -/
  | seta1 (b : BitNo)
  /-- `CLRA1 A.bit`: R164, R89 -/
  | clra1 (b : BitNo)
  /-- `NOT1 M.bit`: R172, R91 -/
  | not1 (addr : Word) (b : BitNo)
  /-- `OR1 M.bit`: R173, R91 -/
  | or1 (addr : Word) (b : BitNo)
  /-- `OR1B M.bit`: R174, R91 -/
  | or1b (addr : Word) (b : BitNo)
  /-- `AND1 M.bit`: R160, R91 -/
  | and1 (addr : Word) (b : BitNo)
  /-- `AND1B M.bit`: R161, R91 -/
  | and1b (addr : Word) (b : BitNo)
  /-- `EOR1 M.bit`: R168, R91 -/
  | eor1 (addr : Word) (b : BitNo)
  /-- `EOR1B M.bit`: R169, R91 -/
  | eor1b (addr : Word) (b : BitNo)
  /-- `LDC M.bit`: R170, R91 -/
  | ldc (addr : Word) (b : BitNo)
  /-- `LDCB M.bit`: R171, R91 -/
  | ldcb (addr : Word) (b : BitNo)
  /-- `STC M.bit`: R179, R91 -/
  | stc (addr : Word) (b : BitNo)
  deriving DecidableEq, Repr

end Sys2Proof
end

