-- ==== Sys2Proof/Machine/State.lean ====
section
/-! DEFINITION. The architectural state (10_state.md, 20_memory.md, 60_exceptions.md), the reasons a step can
stop, and the state right after reset. State is plain data. -/

namespace Sys2Proof.Machine

/-- The 65536 byte cells of the one address space (R30): the cells that differ from `Config.unlistedByte`,
at strictly rising addresses (`Memory.wf`). -/
abbrev Memory := List Host.Cell

/-- What MEMMAP declares at an address (R7, R33). -/
inductive RegionKind
  /-- readable and writable -/
  | ram
  /-- readable; a write is `ModelFault(MemMap)` (R33) -/
  | rom
  /-- a device register: the core reads and writes it as any cell (R9, R41), the environment may change it between
  two instructions (R248; log 32) -/
  | device
  /-- nothing: any access is `ModelFault(MemMap)` (R33) -/
  | hole
  deriving DecidableEq, Repr

/-- One region of MEMMAP: the addresses `lo` to `hi`, both included. -/
structure Region where
  lo : Word
  hi : Word
  kind : RegionKind
  deriving DecidableEq, Repr

/-- One bit of device state: what `enabled()` and `requested()` of a source read, and `clear()` writes (R232).
The chip's data sheet says where it lies (log 14). -/
inductive DeviceBit
  /-- held by the device itself, at no address -/
  | hidden (value : Bool)
  /-- bit `bit` of the device register at `addr` -/
  | register (addr : Word) (bit : BitNo)
  deriving DecidableEq, Repr

/-- One entry of IRQ_TABLE (R232): where its enable and its latched request lie. The sources whose request bit is
1 are IRQ_PENDING (R233). A larger `priority` is served first (R234, R237). -/
structure IrqSource where
  id : Nat
  vector : Word
  priority : Nat
  enable : DeviceBit
  request : DeviceBit
  deriving DecidableEq, Repr

/-- The state of the machine. -/
structure State where
  /-- accumulator (R10) -/
  a : Byte
  /-- index register (R11) -/
  x : Byte
  /-- index register, high half of YA (R11, R12) -/
  y : Byte
  /-- stack pointer (R16) -/
  sp : Byte
  /-- flags N V G B H I Z C, bit 7 to bit 0 (R14) -/
  psw : Byte
  /-- program counter (R13) -/
  pc : Word
  /-- memory (R30) -/
  mem : Memory
  /-- STOPPED: the core executed STOP (R18, R218) -/
  stopped : Bool
  /-- MEMMAP, a parameter no step changes (R33); an address in no region is RAM (D16) -/
  memMap : List Region
  /-- IRQ_TABLE, with the enables and requests that no device register holds (R232, R233) -/
  irqTable : List IrqSource
  /-- the environment asserts reset (R237, R248, R251) -/
  resetRequest : Bool
  /-- model's own: the last instruction was EI, or POP PSW or RETI with I = 1 after it, so this instruction
  boundary may or may not accept an interrupt (R234, D29; log 15) -/
  iShadow : Bool
  /-- model's own: how many free values have been drawn (R9; log 6) -/
  draws : Nat
  deriving DecidableEq, Repr

/-- The `ModelFault` reasons of the spec (R230): the model stops, no state is saved, no vector is taken. -/
inductive Fault
  /-- Op code `00h` was fetched (R61, D5). Raised by the fetch; safe: the chip does something unknown. -/
  | illegalOpcode (op : Byte)
  /-- SETA1, CLRA1, NOT1 or STC with a reserved operand bit set (R62, D6, D7). Raised by the fetch; safe. -/
  | reservedOperandBits (op : Byte) (operand : Byte)
  /-- A write to ROM or an access to a hole of MEMMAP (R33). Raised by the memory operations; safe. -/
  | memMap (addr : Word)
  deriving DecidableEq, Repr

/-- Why the model gives no outcome. No arm of `exec` is refused, so no step is. -/
inductive Refusal
  /-- The instruction has no meaning yet. Raised by `exec` only; safe. -/
  | notModelled (mnemonic : String)
  deriving DecidableEq, Repr

/-- The outcomes of an instruction or a step. -/
abbrev Outcome := Host.Outcome State Fault Refusal

/-- The machine right after reset, with the default parameters (R20, R250, D16, D17): PSW is `00h`, PC is the
pair at the reset vector, of which memory lists neither byte, STOPPED is 0 and nothing is pending. A, X, Y and
SP, and what an unlisted cell reads as, are values of the log (log 1, 2). -/
def State.reset : State where
  a := Config.registerAtReset
  x := Config.registerAtReset
  y := Config.registerAtReset
  sp := Config.registerAtReset
  psw := 0x00
  pc := Config.unlistedByte ++ Config.unlistedByte
  mem := []
  stopped := false
  memMap := []
  irqTable := []
  resetRequest := false
  iShadow := false
  draws := 0

end Sys2Proof.Machine
end

