-- ==== Sys2Proof/Machine/Memory.lean ====
section
/-! DEFINITION. Reading and writing one cell of memory (R30, R41), and the canonical form that every write
keeps. -/

namespace Sys2Proof.Machine

/-- The byte at an address: the listed one, or what an unlisted cell reads as. -/
def memRead (m : Memory) (a : Nat) : Byte :=
  match m with
  | [] => Config.unlistedByte
  | (k, v) :: rest => if k = a then v else memRead rest a

/-- The cells at other addresses. -/
def memErase (m : Memory) (a : Nat) : Memory := m.filter fun c => c.1 != a

/-- Put a cell before the first one at a higher address. -/
def memInsert (m : Memory) (a : Nat) (v : Byte) : Memory :=
  match m with
  | [] => [(a, v)]
  | (k, w) :: rest => if a < k then (a, v) :: (k, w) :: rest else (k, w) :: memInsert rest a v

/-- Write one cell. A cell that would equal what an unlisted cell reads as is not listed. -/
def memWrite (m : Memory) (a : Nat) (v : Byte) : Memory :=
  if v = Config.unlistedByte then memErase m a else memInsert (memErase m a) a v

/-- The canonical form: addresses strictly rising and below 65536 (R30), no entry equal to what an unlisted
cell reads as. -/
def Memory.wf (m : Memory) : Bool :=
  decide (m.Pairwise fun c d => c.1 < d.1) &&
    m.all fun c => decide (c.1 < 0x10000) && c.2 != Config.unlistedByte

end Sys2Proof.Machine
end

