-- ==== Sys2Proof/Machine/Flags.lean ====
section
/-! DEFINITION. The flags of PSW (R14) and every flag computation the instruction rules use (R9, R15, R100 to
R118, R150 to R156). A sum is computed exactly on natural numbers and then narrowed. -/

namespace Sys2Proof.Machine

/-- The eight flags of PSW (R14). -/
inductive Flag
  | n | v | g | b | h | i | z | c
  deriving DecidableEq, Repr

/-- The bit of PSW that holds a flag (R14, D3). UNVERIFIED (log 18). -/
def flagPos : Flag → Nat
  | .n => 7
  | .v => 6
  | .g => 5
  | .b => 4
  | .h => 3
  | .i => 2
  | .z => 1
  | .c => 0

/-- A flag of a PSW byte. -/
def pswFlag (p : Byte) (f : Flag) : Bool := p.getLsbD (flagPos f)

/-- A PSW byte with one flag written. -/
def pswWith (p : Byte) (f : Flag) (v : Bool) : Byte :=
  if v then p ||| (1#8 <<< flagPos f) else p &&& ~~~(1#8 <<< flagPos f)

/-- The value of a flag. -/
def State.flag (s : State) (f : Flag) : Bool := pswFlag s.psw f

/-- The state with one flag written. -/
def State.setFlag (s : State) (f : Flag) (v : Bool) : State := { s with psw := pswWith s.psw f v }

/-- `setNZ8(v)` (R9). -/
def State.setNZ8 (s : State) (v : Byte) : State := (s.setFlag .n v.msb).setFlag .z (v == 0#8)

/-- `setNZ16(v)` (R9). -/
def State.setNZ16 (s : State) (v : Word) : State := (s.setFlag .n v.msb).setFlag .z (v == 0#16)

/-! ## Sums (R100, R118, R150, R156) -/

/-- The 9-bit sum `a + m + c` (R100); for a subtraction `m` is the complement of the subtrahend (R118). -/
def sum8 (a m : Byte) (c : Bool) : Nat := a.toNat + m.toNat + c.toNat

/-- The 17-bit sum `p + w + c` (R150, R156). -/
def sum16 (p w : Word) (c : Bool) : Nat := p.toNat + w.toNat + c.toNat

/-- Carry from bit 3 to bit 4 of the same sum (R100, R118). -/
def halfCarry8 (a m : Byte) (c : Bool) : Bool := decide (a.toNat % 16 + m.toNat % 16 + c.toNat > 15)

/-- Carry from bit 11 to bit 12 (R150, R156, D13; log 11). -/
def halfCarry16 (p w : Word) (c : Bool) : Bool :=
  decide (p.toNat % 0x1000 + w.toNat % 0x1000 + c.toNat > 0xFFF)

/-- V of an addition: equal signs of the addends, another sign of the result (R100). -/
def addOverflow8 (a m r : Byte) : Bool := (a.msb == m.msb) && (r.msb != a.msb)

/-- V of a subtraction: different signs of the operands, and the result's is not the minuend's (R118). -/
def subOverflow8 (a m r : Byte) : Bool := (a.msb != m.msb) && (r.msb != a.msb)

/-- V of a 16-bit addition (R150). -/
def addOverflow16 (p w r : Word) : Bool := (p.msb == w.msb) && (r.msb != p.msb)

/-- V of a 16-bit subtraction (R156). -/
def subOverflow16 (p w r : Word) : Bool := (p.msb != w.msb) && (r.msb != p.msb)

/-- `t = r + (~M & FFh) + 1`; C is t[8] (no borrow), N and Z are of t[7:0]: CMP, CMPX, CMPY (R103, R104, R105). -/
def State.compare8 (s : State) (r m : Byte) : State :=
  (s.setFlag .c (decide (sum8 r (~~~m) true > 0xFF))).setNZ8 (r - m)

/-- The same on 16 bits: CMPW (R151). -/
def State.compare16 (s : State) (p w : Word) : State :=
  (s.setFlag .c (decide (sum16 p (~~~w) true > 0xFFFF))).setNZ16 (p - w)

/-! ## Decimal adjustment (R107, R108, D10) -/

/-- DAA_FN, the default: the standard packed-BCD adjustment after an addition (R107). UNVERIFIED (log 12). -/
def daaFn (a : Byte) (c h : Bool) : Byte × Bool :=
  let high := c || decide (a.toNat > 0x99)
  let a1 := if high then a + 0x60#8 else a
  let a2 := if h || decide (a1.toNat % 16 > 9) then a1 + 0x06#8 else a1
  (a2, high)

/-- DAS_FN, the default: the standard packed-BCD adjustment after a subtraction; C = 1 and H = 1 mean no borrow
(R108). UNVERIFIED (log 12). -/
def dasFn (a : Byte) (c h : Bool) : Byte × Bool :=
  let borrow := !c || decide (a.toNat > 0x99)
  let a1 := if borrow then a - 0x60#8 else a
  let a2 := if !h || decide (a1.toNat % 16 > 9) then a1 - 0x06#8 else a1
  (a2, !borrow)

end Sys2Proof.Machine
end

