-- ==== Sys2Proof/Machine/Ops.lean ====
section
/-! DEFINITION. The named operations over memory, the stack and control (R9, R16, R33 to R37), written in
continuation style: each says what it reads or writes, in the order of the rule that calls it, and stops
where MEMMAP gives the access no meaning (R33). -/

namespace Sys2Proof.Machine

/-! ## Fixed parameters (R7) -/

/-- STACK_PAGE: the upper byte of every stack address (R7, R16, D4). UNVERIFIED (log 19). -/
def stackPage : Byte := 0x01

/-- RESET_VECTOR (R7, R250, D21). UNVERIFIED (log 20). -/
def resetVector : Word := 0xFFFE

/-- BRK_VECTOR (R7, R210, D19). UNVERIFIED (log 20). -/
def brkVector : Word := 0xFFDE

/-! ## Memory -/

/-- What MEMMAP declares at an address: the first region that holds it; RAM where none does (R33, D16). -/
def State.kindAt (s : State) (a : Word) : RegionKind :=
  match s.memMap.find? fun r => decide (r.lo ≤ a) && decide (a ≤ r.hi) with
  | some r => r.kind
  | none => .ram

/-- The byte that memory holds at an address. -/
def State.byteAt (s : State) (a : Word) : Byte := memRead s.mem a.toNat

/-- The state with one byte of memory written. -/
def State.storeByte (s : State) (a : Word) (v : Byte) : State :=
  { s with mem := memWrite s.mem a.toNat v }

/-- `MemRead(a, 1)` (R9), where MEMMAP allows a read (R33). -/
def withByte (s : State) (a : Word) (k : Byte → Outcome) : Outcome :=
  match s.kindAt a with
  | .ram => k (s.byteAt a)
  | .rom => k (s.byteAt a)
  | .device => k (s.byteAt a)
  | .hole => .fault (.memMap a)

/-- `MemWrite(a, 1, v)` (R9), where MEMMAP allows a write (R33). -/
def storing (s : State) (a : Word) (v : Byte) (k : State → Outcome) : Outcome :=
  match s.kindAt a with
  | .ram => k (s.storeByte a v)
  | .rom => .fault (.memMap a)
  | .device => k (s.storeByte a v)
  | .hole => .fault (.memMap a)

/-- The pair at `lo` and `hi`, low byte read first (R34, R37). -/
def withPairAt (s : State) (lo hi : Word) (k : Word → Outcome) : Outcome :=
  withByte s lo fun l => withByte s hi fun h => k (mkWord h l)

/-- The pair at `lo` and `hi` written, low byte first (R37). -/
def storingPairAt (s : State) (lo hi : Word) (w : Word) (k : State → Outcome) : Outcome :=
  storing s lo (loByte w) fun s' => storing s' hi (hiByte w) k

/-- The pair named by an absolute address: its high byte is at `(a + 1) mod 65536` (R36, D1). -/
def withPair (s : State) (a : Word) (k : Word → Outcome) : Outcome := withPairAt s a (a + 1#16) k

/-- The 16-bit value that memory holds at `a` and `a + 1`. -/
def State.wordAt (s : State) (a : Word) : Word := mkWord (s.byteAt (a + 1#16)) (s.byteAt a)

/-! ## Registers -/

/-- YA: Y is the high byte, A the low byte (R12). -/
def State.ya (s : State) : Word := mkWord s.y s.a

/-- `YA <- w` (R9, R12). -/
def State.setYA (s : State) (w : Word) : State := { s with y := hiByte w, a := loByte w }

/-! ## Free values -/

/-- `draw(1)` (R9): the next free bit. -/
def State.drawBit (s : State) : Bool × State := (Config.freeBit s.draws, { s with draws := s.draws + 1 })

/-- `draw(8)` (R9): the next free byte. -/
def State.drawByte (s : State) : Byte × State := (Config.freeByte s.draws, { s with draws := s.draws + 1 })

/-- A flag drawn: `f <- draw(1)` (R9). -/
def State.drawFlag (s : State) (f : Flag) : State := s.drawBit.2.setFlag f s.drawBit.1

/-! ## The stack (R16) -/

/-- `{STACK_PAGE, SP}`: the stack address of a stack-pointer value (R16, D4). -/
def stackCell (sp : Byte) : Word := mkWord stackPage sp

/-- `push8(v)` (R9, R16): write at `{STACK_PAGE, SP}`, then decrement SP modulo 256. -/
def push8 (s : State) (v : Byte) (k : State → Outcome) : Outcome :=
  storing s (stackCell s.sp) v fun s' => k { s' with sp := s'.sp - 1#8 }

/-- `pop8()` (R9, R16): increment SP modulo 256, then read at `{STACK_PAGE, SP}`. -/
def pop8 (s : State) (k : Byte → State → Outcome) : Outcome :=
  withByte s (stackCell (s.sp + 1#8)) fun v => k v { s with sp := s.sp + 1#8 }

/-- `pushPC()`: high byte first, so the low byte lies at the lower stack address (45_branch_jump.md,
conventions; D27). UNVERIFIED (log 19). -/
def pushPC (s : State) (k : State → Outcome) : Outcome :=
  push8 s (hiByte s.pc) fun s' => push8 s' (loByte s.pc) k

/-- Pop a program counter: low byte, then high byte, used unchanged (R216, D27). -/
def popPC (s : State) (k : State → Outcome) : Outcome :=
  pop8 s fun lo s1 => pop8 s1 fun hi s2 => k { s2 with pc := mkWord hi lo }

/-! ## Control -/

/-- `branch(rel)`: PC holds the address of the next instruction; the sum wraps (R85, D1). -/
def State.branch (s : State) (rel : Byte) : State := { s with pc := s.pc + sext16 rel }

/-- `if cond then branch(rel)`. -/
def State.branchIf (s : State) (cond : Bool) (rel : Byte) : State := if cond then s.branch rel else s

/-! ## Taking an exception and returning from one -/

/-- The entry sequence shared by BRK and every hardware interrupt (R235, R239, D18, D19): push PC (high byte
first) and PSW as it stands, clear I, acknowledge (`s.clear()` of an interrupt, nothing for BRK), and go to the
address in the vector pair. A, X, Y and the other flags keep their values. UNVERIFIED (log 20). -/
def enterHandler (vector : Word) (acknowledge : State → State) (s : State) : Outcome :=
  pushPC s fun s1 => push8 s1 s.psw fun s2 =>
    withPair (acknowledge (s2.setFlag .i false)) vector fun target =>
      .next { acknowledge (s2.setFlag .i false) with pc := target }

/-- The return sequence (R217, R238): pop PSW, then PC low, then PC high; nothing else is restored. When it
leaves I = 1 the next boundary is an open acceptance point (R234, D29; log 15). -/
def returnFromHandler (s : State) : Outcome :=
  pop8 s fun p s1 => popPC s1 fun s2 => .next { s2 with psw := p, iShadow := pswFlag p .i }

end Sys2Proof.Machine
end

