-- ==== Sys2Proof/Machine/Operands.lean ====
section
/-! DEFINITION. The addressing modes (40_addressing_modes.md): the effective address of each, computed once.
Forming an address reads the state and changes nothing. -/

namespace Sys2Proof.Machine

/-- `dpaddr(off)` = `{0000000b, G, off}` (R9, R72). -/
def State.dpAddr (s : State) (off : Byte) : Word := mkWord (if s.flag .g then 1#8 else 0#8) off

/-- `dpaddr_hi(off)`: where the high byte of a direct-page pair lies. At offset `FFh` the parameter PAIR_WRAP
decides (R36, D2; log 5). -/
def State.dpAddrHi (s : State) (off : Byte) : Word :=
  if off = 255#8 then
    match Config.pairWrap with
    | .inPage => s.dpAddr (off + 1#8)
    | .linear => s.dpAddr off + 1#16
  else s.dpAddr (off + 1#8)

/-- The value of the direct-page pair at an offset (R36, R92). -/
def State.dpWord (s : State) (off : Byte) : Word :=
  mkWord (s.byteAt (s.dpAddrHi off)) (s.byteAt (s.dpAddr off))

/-- Read a direct-page pair, low byte first (R36, R37). -/
def withDpWord (s : State) (off : Byte) (k : Word → Outcome) : Outcome :=
  withPairAt s (s.dpAddr off) (s.dpAddrHi off) k

/-- Write a direct-page pair, low byte first (R36, R37). -/
def storingDpWord (s : State) (off : Byte) (w : Word) (k : State → Outcome) : Outcome :=
  storingPairAt s (s.dpAddr off) (s.dpAddrHi off) w k

/-- The operand forms that name one byte of memory. -/
inductive Mode
  /-- `dp` (R74) -/
  | dp (off : Byte)
  /-- `dp+X` (R76) -/
  | dpX (off : Byte)
  /-- `dp+Y` (R77) -/
  | dpY (off : Byte)
  /-- `!abs` (R75) -/
  | abs (addr : Word)
  /-- `!abs+Y` (R78) -/
  | absY (addr : Word)
  /-- `(X)` in braces, X-register indirect (R79), and the access of its auto-increment form (R80) -/
  | indX
  /-- `[dp+X]` (R82) -/
  | indDpX (off : Byte)
  /-- `[dp]+Y` (R83) -/
  | indDpY (off : Byte)
  deriving DecidableEq, Repr

/-- The effective address of a memory operand (R74 to R83). Index sums of `dp` modes drop the carry and stay in
the page (R76, R77); 16-bit sums wrap (D1). -/
def Mode.ea (m : Mode) (s : State) : Word :=
  match m with
  | .dp off => s.dpAddr off
  | .dpX off => s.dpAddr (off + s.x)
  | .dpY off => s.dpAddr (off + s.y)
  | .abs addr => addr
  | .absY addr => addr + zext16 s.y
  | .indX => s.dpAddr s.x
  | .indDpX off => s.dpWord (off + s.x)
  | .indDpY off => s.dpWord off + zext16 s.y

/-- The cells of memory that forming the effective address reads: the pointer pair of the indirect modes
(R82, R83). -/
def Mode.pointerCells (m : Mode) (s : State) : List Word :=
  match m with
  | .dp _ | .dpX _ | .dpY _ | .abs _ | .absY _ | .indX => []
  | .indDpX off => [s.dpAddr (off + s.x), s.dpAddrHi (off + s.x)]
  | .indDpY off => [s.dpAddr off, s.dpAddrHi off]

/-- Form the effective address, reading the pointer pair where the mode has one. -/
def withEA (m : Mode) (s : State) (k : Word → Outcome) : Outcome :=
  match m with
  | .dp off => k (s.dpAddr off)
  | .dpX off => k (s.dpAddr (off + s.x))
  | .dpY off => k (s.dpAddr (off + s.y))
  | .abs addr => k addr
  | .absY addr => k (addr + zext16 s.y)
  | .indX => k (s.dpAddr s.x)
  | .indDpX off => withDpWord s (off + s.x) k
  | .indDpY off => withDpWord s off fun p => k (p + zext16 s.y)

/-- "Operand `M` by mode": an immediate byte (R73) or the byte at the effective address. -/
inductive Src
  | imm (v : Byte)
  | mem (m : Mode)
  deriving DecidableEq, Repr

/-- The operand's value. -/
def Src.value (o : Src) (s : State) : Byte :=
  match o with
  | .imm v => v
  | .mem m => s.byteAt (m.ea s)

/-- The cells of memory that reading the operand reads. -/
def Src.cells (o : Src) (s : State) : List Word :=
  match o with
  | .imm _ => []
  | .mem m => m.pointerCells s ++ [m.ea s]

/-- Read the operand. -/
def withSrc (o : Src) (s : State) (k : Byte → Outcome) : Outcome :=
  match o with
  | .imm v => k v
  | .mem m => withEA m s fun ea => withByte s ea k

/-- Store a byte at the effective address; nothing is read there (R39). -/
def storeMode (m : Mode) (v : Byte) (s : State) (k : State → Outcome) : Outcome :=
  withEA m s fun ea => storing s ea v k

/-- One read and one write of the same address (R37): the byte `v` there becomes `f v`, then `g v` gives the
state. -/
def modifyAt (ea : Word) (f : Byte → Byte) (g : Byte → State → State) (s : State) : Outcome :=
  withByte s ea fun v => storing s ea (f v) fun s' => .next (g v s')

/-- Read-modify-write of a memory operand (R37). -/
def modifyMode (m : Mode) (f : Byte → Byte) (g : Byte → State → State) (s : State) : Outcome :=
  withEA m s fun ea => modifyAt ea f g s

end Sys2Proof.Machine
end

