-- ==== Sys2Proof/Machine/BitOps.lean ====
section
/-! DEFINITION. Bit manipulation instructions (44_bit_manipulation.md, R160 to R181). -/

namespace Sys2Proof.Machine

/-- C becomes a function of C and a memory bit (R160, R161, R168 to R171, R173, R174); memory is only read. -/
def carryWithBit (addr : Word) (b : BitNo) (f : Bool → Bool → Bool) (s : State) : Outcome :=
  withByte s addr fun v => .next (s.setFlag .c (f (s.flag .c) (bitOf v b)))

/-- BIT (R162): Z from the AND with A, N and V from the memory byte. -/
def testBits (m : Byte) (s : State) : State :=
  ((s.setFlag .z (s.a &&& m == 0#8)).setFlag .n (m.getLsbD 7)).setFlag .v (m.getLsbD 6)

/-- `BIT dp` (R162, R74). -/
def execBitDp (dp : Byte) (s : State) : Outcome := withSrc (.mem (.dp dp)) s fun m => .next (testBits m s)

/-- `BIT !abs` (R162, R75). -/
def execBitAbs (addr : Word) (s : State) : Outcome :=
  withSrc (.mem (.abs addr)) s fun m => .next (testBits m s)

/-- `TSET1 !abs` (R181, R75). -/
def execTset1 (addr : Word) (s : State) : Outcome :=
  modifyMode (.abs addr) (fun v => v ||| s.a) (fun v t => t.setNZ8 (s.a - v)) s

/-- `TCLR1 !abs` (R180, R75). -/
def execTclr1 (addr : Word) (s : State) : Outcome :=
  modifyMode (.abs addr) (fun v => v &&& ~~~s.a) (fun v t => t.setNZ8 (s.a - v)) s

/-- `CLRC` (R165, R71). -/
def execClrc (s : State) : Outcome := .next (s.setFlag .c false)

/-- `CLRG` (R166, R71). -/
def execClrg (s : State) : Outcome := .next (s.setFlag .g false)

/-- `CLRV` (R167, R71). -/
def execClrv (s : State) : Outcome := .next ((s.setFlag .v false).setFlag .h false)

/-- `SETC` (R177, R71). -/
def execSetc (s : State) : Outcome := .next (s.setFlag .c true)

/-- `SETG` (R178, R71). -/
def execSetg (s : State) : Outcome := .next (s.setFlag .g true)

/-- `SET1 dp.bit` (R175, R90). -/
def execSet1 (b : BitNo) (dp : Byte) (s : State) : Outcome :=
  modifyMode (.dp dp) (fun v => withBitSet v b) (fun _ t => t) s

/-- `CLR1 dp.bit` (R163, R90). -/
def execClr1 (b : BitNo) (dp : Byte) (s : State) : Outcome :=
  modifyMode (.dp dp) (fun v => withBitClear v b) (fun _ t => t) s

/-- `SETA1 A.bit` (R176, R89). -/
def execSeta1 (b : BitNo) (s : State) : Outcome := .next { s with a := withBitSet s.a b }

/-- `CLRA1 A.bit` (R164, R89). -/
def execClra1 (b : BitNo) (s : State) : Outcome := .next { s with a := withBitClear s.a b }

/-- `NOT1 M.bit` (R172, R91). -/
def execNot1 (addr : Word) (b : BitNo) (s : State) : Outcome :=
  modifyAt addr (fun v => v ^^^ bitMask b) (fun _ t => t) s

/-- `OR1 M.bit` (R173, R91). -/
def execOr1 (addr : Word) (b : BitNo) (s : State) : Outcome := carryWithBit addr b (fun c m => c || m) s

/-- `OR1B M.bit` (R174, R91). -/
def execOr1b (addr : Word) (b : BitNo) (s : State) : Outcome := carryWithBit addr b (fun c m => c || !m) s

/-- `AND1 M.bit` (R160, R91). -/
def execAnd1 (addr : Word) (b : BitNo) (s : State) : Outcome := carryWithBit addr b (fun c m => c && m) s

/-- `AND1B M.bit` (R161, R91). -/
def execAnd1b (addr : Word) (b : BitNo) (s : State) : Outcome := carryWithBit addr b (fun c m => c && !m) s

/-- `EOR1 M.bit` (R168, R91). -/
def execEor1 (addr : Word) (b : BitNo) (s : State) : Outcome := carryWithBit addr b (fun c m => c ^^ m) s

/-- `EOR1B M.bit` (R169, R91). -/
def execEor1b (addr : Word) (b : BitNo) (s : State) : Outcome := carryWithBit addr b (fun c m => c ^^ !m) s

/-- `LDC M.bit` (R170, R91). -/
def execLdc (addr : Word) (b : BitNo) (s : State) : Outcome := carryWithBit addr b (fun _ m => m) s

/-- `LDCB M.bit` (R171, R91). -/
def execLdcb (addr : Word) (b : BitNo) (s : State) : Outcome := carryWithBit addr b (fun _ m => !m) s

/-- `STC M.bit` (R179, R91). -/
def execStc (addr : Word) (b : BitNo) (s : State) : Outcome :=
  modifyAt addr (fun v => if s.flag .c then withBitSet v b else withBitClear v b) (fun _ t => t) s

end Sys2Proof.Machine
end

