-- ==== Sys2Proof/Machine/Branch.lean ====
section
/-! DEFINITION. Branch, jump and subroutine-call instructions (45_branch_jump.md, R190 to R206). PC already holds the
address of the next instruction. -/

namespace Sys2Proof.Machine

/-- CBNE (R202): branch on A and the byte differing; N, Z and C are drawn (D12). -/
def compareBranch (o : Src) (rel : Byte) (s : State) : Outcome :=
  withSrc o s fun m => .next ((((s.branchIf (s.a != m) rel).drawFlag .n).drawFlag .z).drawFlag .c)

/-- DBNE after the decrement (R203): branch on a result that is not zero; N and Z are drawn (D12). -/
def decrementBranch (r rel : Byte) (s : State) : State :=
  ((s.branchIf (r != 0#8) rel).drawFlag .n).drawFlag .z

/-- A call: push the address of the next instruction, then go to the target (R201, R205). -/
def callTo (target : Word) (s : State) : Outcome := pushPC s fun t => .next { t with pc := target }

/-- The vector of TCALL n: `{11111111b, 110b, ~n, 0b}` = `FFDEh - 2n` (R94). -/
def tcallVector (n : TableNo) : Word := 0x7FE#11 ++ ~~~n ++ 0#1

/-- `DBNE dp,rel` (R203, R88). -/
def execDbneDp (dp : Byte) (rel : Byte) (s : State) : Outcome :=
  modifyMode (.dp dp) (fun v => v - 1#8) (fun v t => decrementBranch (v - 1#8) rel t) s

/-- `DBNE Y,rel` (R203, R88). -/
def execDbneY (rel : Byte) (s : State) : Outcome :=
  .next (decrementBranch (s.y - 1#8) rel { s with y := s.y - 1#8 })

/-- `CBNE dp,rel` (R202, R88). -/
def execCbneDp (dp : Byte) (rel : Byte) (s : State) : Outcome := compareBranch (.mem (.dp dp)) rel s

/-- `CBNE dp+X,rel` (R202, R88). -/
def execCbneDpX (dp : Byte) (rel : Byte) (s : State) : Outcome := compareBranch (.mem (.dpX dp)) rel s

/-- `BRA rel` (R198, R85). -/
def execBra (rel : Byte) (s : State) : Outcome := .next (s.branch rel)

/-- `BPL rel` (R197, R85). -/
def execBpl (rel : Byte) (s : State) : Outcome := .next (s.branchIf (!s.flag .n) rel)

/-- `BVC rel` (R199, R85). -/
def execBvc (rel : Byte) (s : State) : Outcome := .next (s.branchIf (!s.flag .v) rel)

/-- `BCC rel` (R192, R85). -/
def execBcc (rel : Byte) (s : State) : Outcome := .next (s.branchIf (!s.flag .c) rel)

/-- `BNE rel` (R196, R85). -/
def execBne (rel : Byte) (s : State) : Outcome := .next (s.branchIf (!s.flag .z) rel)

/-- `BMI rel` (R195, R85). -/
def execBmi (rel : Byte) (s : State) : Outcome := .next (s.branchIf (s.flag .n) rel)

/-- `BVS rel` (R200, R85). -/
def execBvs (rel : Byte) (s : State) : Outcome := .next (s.branchIf (s.flag .v) rel)

/-- `BCS rel` (R193, R85). -/
def execBcs (rel : Byte) (s : State) : Outcome := .next (s.branchIf (s.flag .c) rel)

/-- `BEQ rel` (R194, R85). -/
def execBeq (rel : Byte) (s : State) : Outcome := .next (s.branchIf (s.flag .z) rel)

/-- `PCALL upage` (R205, R93). -/
def execPcall (u : Byte) (s : State) : Outcome := callTo (mkWord 0xFF#8 u) s

/-- `JMP !abs` (R204, R75). -/
def execJmpAbs (addr : Word) (s : State) : Outcome := .next { s with pc := addr }

/-- `JMP [!abs]` (R204, R84). -/
def execJmpIndAbs (addr : Word) (s : State) : Outcome :=
  withPair s addr fun target => .next { s with pc := target }

/-- `JMP [dp]` (R204, R81). -/
def execJmpIndDp (dp : Byte) (s : State) : Outcome :=
  withDpWord s dp fun target => .next { s with pc := target }

/-- `CALL !abs` (R201, R75). -/
def execCallAbs (addr : Word) (s : State) : Outcome := callTo addr s

/-- `CALL [dp]` (R201, R81). -/
def execCallIndDp (dp : Byte) (s : State) : Outcome := withDpWord s dp fun target => callTo target s

/-- `BBS A.bit,rel` (R191, R86). -/
def execBbsA (b : BitNo) (rel : Byte) (s : State) : Outcome := .next (s.branchIf (bitOf s.a b) rel)

/-- `BBS dp.bit,rel` (R191, R87). -/
def execBbsDp (b : BitNo) (dp : Byte) (rel : Byte) (s : State) : Outcome :=
  withSrc (.mem (.dp dp)) s fun m => .next (s.branchIf (bitOf m b) rel)

/-- `BBC A.bit,rel` (R190, R86). -/
def execBbcA (b : BitNo) (rel : Byte) (s : State) : Outcome := .next (s.branchIf (!bitOf s.a b) rel)

/-- `BBC dp.bit,rel` (R190, R87). -/
def execBbcDp (b : BitNo) (dp : Byte) (rel : Byte) (s : State) : Outcome :=
  withSrc (.mem (.dp dp)) s fun m => .next (s.branchIf (!bitOf m b) rel)

/-- `TCALL n` (R206, R94). -/
def execTcall (n : TableNo) (s : State) : Outcome :=
  pushPC s fun t => withPair t (tcallVector n) fun target => .next { t with pc := target }

end Sys2Proof.Machine
end

