-- ==== Sys2Proof/Machine/Control.lean ====
section
/-! DEFINITION. Stack, interrupt-control and machine-control instructions (46_control.md, R210 to R218). -/

namespace Sys2Proof.Machine

/-- `POP A` (R214, R71). -/
def execPopA (s : State) : Outcome := pop8 s fun v t => .next { t with a := v }

/-- `POP X` (R214, R71). -/
def execPopX (s : State) : Outcome := pop8 s fun v t => .next { t with x := v }

/-- `POP Y` (R214, R71). -/
def execPopY (s : State) : Outcome := pop8 s fun v t => .next { t with y := v }

/-- `POP PSW` (R214, R71). -/
def execPopPsw (s : State) : Outcome := pop8 s fun v t => .next { t with psw := v, iShadow := pswFlag v .i }

/-- `PUSH A` (R215, R71). -/
def execPushA (s : State) : Outcome := push8 s s.a fun t => .next t

/-- `PUSH X` (R215, R71). -/
def execPushX (s : State) : Outcome := push8 s s.x fun t => .next t

/-- `PUSH Y` (R215, R71). -/
def execPushY (s : State) : Outcome := push8 s s.y fun t => .next t

/-- `PUSH PSW` (R215, R71). -/
def execPushPsw (s : State) : Outcome := push8 s s.psw fun t => .next t

/-- `BRK` (R210, R71). -/
def execBrk (s : State) : Outcome := enterHandler brkVector (fun t => t) (s.setFlag .b true)

/-- `RET` (R216, R71). -/
def execRet (s : State) : Outcome := popPC s fun t => .next t

/-- `STOP` (R218, R71). -/
def execStop (s : State) : Outcome := .next { s with stopped := true }

/-- `RETI` (R217, R71). -/
def execReti (s : State) : Outcome := returnFromHandler s

/-- `NOP` (R213, R71). -/
def execNop (s : State) : Outcome := .next s

/-- `DI` (R211, R71). -/
def execDi (s : State) : Outcome := .next (s.setFlag .i false)

/-- `EI` (R212, R71). -/
def execEi (s : State) : Outcome := .next { s.setFlag .i true with iShadow := true }

end Sys2Proof.Machine
end

