-- ==== Sys2Proof/Machine/Sixteen.lean ====
section
/-! DEFINITION. 16-bit operation instructions (43_16bit.md, R150 to R156). -/

namespace Sys2Proof.Machine

/-- ADDW (R150): no carry in; H is the carry out of bit 11 (D13; log 11). -/
def addYA (w : Word) (s : State) : State :=
  let r : Word := BitVec.ofNat 16 (sum16 s.ya w false)
  ((((s.setYA r).setFlag .h (halfCarry16 s.ya w false)).setFlag .v (addOverflow16 s.ya w r)).setFlag .c
    (decide (sum16 s.ya w false > 0xFFFF))).setNZ16 r

/-- SUBW (R156): no borrow in; C and H are inverted borrows (D13, D30; log 11). -/
def subYA (w : Word) (s : State) : State :=
  let r : Word := BitVec.ofNat 16 (sum16 s.ya (~~~w) true)
  ((((s.setYA r).setFlag .h (halfCarry16 s.ya (~~~w) true)).setFlag .v (subOverflow16 s.ya w r)).setFlag .c
    (decide (sum16 s.ya (~~~w) true > 0xFFFF))).setNZ16 r

/-- `ADDW dp` (R150, R92). -/
def execAddw (dp : Byte) (s : State) : Outcome := withDpWord s dp fun w => .next (addYA w s)

/-- `SUBW dp` (R156, R92). -/
def execSubw (dp : Byte) (s : State) : Outcome := withDpWord s dp fun w => .next (subYA w s)

/-- `CMPW dp` (R151, R92). -/
def execCmpw (dp : Byte) (s : State) : Outcome := withDpWord s dp fun w => .next (s.compare16 s.ya w)

/-- `LDYA dp` (R154, R92). -/
def execLdya (dp : Byte) (s : State) : Outcome := withDpWord s dp fun w => .next ((s.setYA w).setNZ16 w)

/-- `INCW dp` (R153, R92). -/
def execIncw (dp : Byte) (s : State) : Outcome :=
  withDpWord s dp fun w => storingDpWord s dp (w + 1#16) fun t => .next (t.setNZ16 (w + 1#16))

/-- `DECW dp` (R152, R92). -/
def execDecw (dp : Byte) (s : State) : Outcome :=
  withDpWord s dp fun w => storingDpWord s dp (w - 1#16) fun t => .next (t.setNZ16 (w - 1#16))

/-- `STYA dp` (R155, R92). -/
def execStya (dp : Byte) (s : State) : Outcome := storingDpWord s dp s.ya fun t => .next t

end Sys2Proof.Machine
end

