-- ==== Sys2Proof/Machine/Arith.lean ====
section
/-! DEFINITION. Arithmetic and logic instructions (41_arithmetic_logic.md, R100 to R120). -/

namespace Sys2Proof.Machine

/-- ADC (R100): the 9-bit sum of A, the operand and C. -/
def aluAdc (m : Byte) (s : State) : State :=
  let c := s.flag .c
  let r : Byte := BitVec.ofNat 8 (sum8 s.a m c)
  ((({ s with a := r }.setFlag .h (halfCarry8 s.a m c)).setFlag .v (addOverflow8 s.a m r)).setFlag .c
    (decide (sum8 s.a m c > 0xFF))).setNZ8 r

/-- SBC (R118): the 9-bit sum of A, the complement of the operand and C; C and H are inverted borrows (D30). -/
def aluSbc (m : Byte) (s : State) : State :=
  let c := s.flag .c
  let r : Byte := BitVec.ofNat 8 (sum8 s.a (~~~m) c)
  ((({ s with a := r }.setFlag .h (halfCarry8 s.a (~~~m) c)).setFlag .v (subOverflow8 s.a m r)).setFlag .c
    (decide (sum8 s.a (~~~m) c > 0xFF))).setNZ8 r

/-- A takes a value, N and Z are set from it. -/
def loadA (v : Byte) (s : State) : State := { s with a := v }.setNZ8 v

/-- X takes a value, N and Z are set from it. -/
def loadX (v : Byte) (s : State) : State := { s with x := v }.setNZ8 v

/-- Y takes a value, N and Z are set from it. -/
def loadY (v : Byte) (s : State) : State := { s with y := v }.setNZ8 v

/-- AND (R101). -/
def aluAnd (m : Byte) (s : State) : State := loadA (s.a &&& m) s

/-- OR (R115). -/
def aluOr (m : Byte) (s : State) : State := loadA (s.a ||| m) s

/-- EOR (R111). -/
def aluEor (m : Byte) (s : State) : State := loadA (s.a ^^^ m) s

/-- CMP (R103). -/
def cmpA (m : Byte) (s : State) : State := s.compare8 s.a m

/-- CMPX (R104). -/
def cmpX (m : Byte) (s : State) : State := s.compare8 s.x m

/-- CMPY (R105). -/
def cmpY (m : Byte) (s : State) : State := s.compare8 s.y m

/-- The four shift and rotate operations. -/
inductive ShiftOp
  | asl | lsr | rol | ror
  deriving DecidableEq, Repr

/-- The result of a shift or rotation of `v` with the carry before it (R102, R113, R116, R117). -/
def shiftResult (op : ShiftOp) (v : Byte) (c : Bool) : Byte :=
  match op with
  | .asl => v <<< 1
  | .lsr => v >>> 1
  | .rol => v.extractLsb' 0 7 ++ BitVec.ofBool c
  | .ror => BitVec.ofBool c ++ v.extractLsb' 1 7

/-- The carry after it: the bit shifted out. -/
def shiftCarry (op : ShiftOp) (v : Byte) : Bool :=
  match op with
  | .asl | .rol => v.getLsbD 7
  | .lsr | .ror => v.getLsbD 0

/-- Shift or rotate A. -/
def shiftA (op : ShiftOp) (s : State) : State :=
  loadA (shiftResult op s.a (s.flag .c)) (s.setFlag .c (shiftCarry op s.a))

/-- Shift or rotate a memory operand. -/
def shiftMem (op : ShiftOp) (m : Mode) (s : State) : Outcome :=
  modifyMode m (fun v => shiftResult op v (s.flag .c))
    (fun v t => (t.setFlag .c (shiftCarry op v)).setNZ8 (shiftResult op v (s.flag .c))) s

/-- INC of a memory operand (R112): C is unchanged. -/
def incMem (m : Mode) (s : State) : Outcome := modifyMode m (fun v => v + 1#8) (fun v t => t.setNZ8 (v + 1#8)) s

/-- DEC of a memory operand (R109): C is unchanged. -/
def decMem (m : Mode) (s : State) : Outcome := modifyMode m (fun v => v - 1#8) (fun v t => t.setNZ8 (v - 1#8)) s

/-- DAA and DAS (R107, R108): A and C from the adjustment, N and Z from A. -/
def adjustA (r : Byte × Bool) (s : State) : State := loadA r.1 (s.setFlag .c r.2)

/-- DIV with Y < X (R110): quotient in A, remainder in Y, V = 0, N and Z of the quotient, H drawn. -/
def divideExact (s : State) : State :=
  let q : Byte := BitVec.ofNat 8 (s.ya.toNat / s.x.toNat)
  let r : Byte := BitVec.ofNat 8 (s.ya.toNat % s.x.toNat)
  (({ s with a := q, y := r }.setFlag .v false).setNZ8 q).drawFlag .h

/-- DIV with Y >= X (R110, D9): V = 1; A, Y, N, Z and H are drawn. -/
def divideOverflow (s : State) : State :=
  let (a, s1) := (s.setFlag .v true).drawByte
  let (y, s2) := s1.drawByte
  (({ s2 with a := a, y := y }.drawFlag .n).drawFlag .z).drawFlag .h

/-- `ADC #imm` (R100, R73). -/
def execAdcImm (imm : Byte) (s : State) : Outcome := withSrc (.imm imm) s fun m => .next (aluAdc m s)

/-- `ADC dp` (R100, R74). -/
def execAdcDp (dp : Byte) (s : State) : Outcome := withSrc (.mem (.dp dp)) s fun m => .next (aluAdc m s)

/-- `ADC dp+X` (R100, R76). -/
def execAdcDpX (dp : Byte) (s : State) : Outcome := withSrc (.mem (.dpX dp)) s fun m => .next (aluAdc m s)

/-- `ADC !abs` (R100, R75). -/
def execAdcAbs (addr : Word) (s : State) : Outcome := withSrc (.mem (.abs addr)) s fun m => .next (aluAdc m s)

/-- `ADC {X}` (R100, R79). -/
def execAdcIndX (s : State) : Outcome := withSrc (.mem .indX) s fun m => .next (aluAdc m s)

/-- `ADC !abs+Y` (R100, R78). -/
def execAdcAbsY (addr : Word) (s : State) : Outcome :=
  withSrc (.mem (.absY addr)) s fun m => .next (aluAdc m s)

/-- `ADC [dp+X]` (R100, R82). -/
def execAdcIndDpX (dp : Byte) (s : State) : Outcome :=
  withSrc (.mem (.indDpX dp)) s fun m => .next (aluAdc m s)

/-- `ADC [dp]+Y` (R100, R83). -/
def execAdcIndDpY (dp : Byte) (s : State) : Outcome :=
  withSrc (.mem (.indDpY dp)) s fun m => .next (aluAdc m s)

/-- `SBC #imm` (R118, R73). -/
def execSbcImm (imm : Byte) (s : State) : Outcome := withSrc (.imm imm) s fun m => .next (aluSbc m s)

/-- `SBC dp` (R118, R74). -/
def execSbcDp (dp : Byte) (s : State) : Outcome := withSrc (.mem (.dp dp)) s fun m => .next (aluSbc m s)

/-- `SBC dp+X` (R118, R76). -/
def execSbcDpX (dp : Byte) (s : State) : Outcome := withSrc (.mem (.dpX dp)) s fun m => .next (aluSbc m s)

/-- `SBC !abs` (R118, R75). -/
def execSbcAbs (addr : Word) (s : State) : Outcome := withSrc (.mem (.abs addr)) s fun m => .next (aluSbc m s)

/-- `SBC {X}` (R118, R79). -/
def execSbcIndX (s : State) : Outcome := withSrc (.mem .indX) s fun m => .next (aluSbc m s)

/-- `SBC !abs+Y` (R118, R78). -/
def execSbcAbsY (addr : Word) (s : State) : Outcome :=
  withSrc (.mem (.absY addr)) s fun m => .next (aluSbc m s)

/-- `SBC [dp+X]` (R118, R82). -/
def execSbcIndDpX (dp : Byte) (s : State) : Outcome :=
  withSrc (.mem (.indDpX dp)) s fun m => .next (aluSbc m s)

/-- `SBC [dp]+Y` (R118, R83). -/
def execSbcIndDpY (dp : Byte) (s : State) : Outcome :=
  withSrc (.mem (.indDpY dp)) s fun m => .next (aluSbc m s)

/-- `CMP #imm` (R103, R73). -/
def execCmpImm (imm : Byte) (s : State) : Outcome := withSrc (.imm imm) s fun m => .next (cmpA m s)

/-- `CMP dp` (R103, R74). -/
def execCmpDp (dp : Byte) (s : State) : Outcome := withSrc (.mem (.dp dp)) s fun m => .next (cmpA m s)

/-- `CMP dp+X` (R103, R76). -/
def execCmpDpX (dp : Byte) (s : State) : Outcome := withSrc (.mem (.dpX dp)) s fun m => .next (cmpA m s)

/-- `CMP !abs` (R103, R75). -/
def execCmpAbs (addr : Word) (s : State) : Outcome := withSrc (.mem (.abs addr)) s fun m => .next (cmpA m s)

/-- `CMP {X}` (R103, R79). -/
def execCmpIndX (s : State) : Outcome := withSrc (.mem .indX) s fun m => .next (cmpA m s)

/-- `CMP !abs+Y` (R103, R78). -/
def execCmpAbsY (addr : Word) (s : State) : Outcome := withSrc (.mem (.absY addr)) s fun m => .next (cmpA m s)

/-- `CMP [dp+X]` (R103, R82). -/
def execCmpIndDpX (dp : Byte) (s : State) : Outcome := withSrc (.mem (.indDpX dp)) s fun m => .next (cmpA m s)

/-- `CMP [dp]+Y` (R103, R83). -/
def execCmpIndDpY (dp : Byte) (s : State) : Outcome := withSrc (.mem (.indDpY dp)) s fun m => .next (cmpA m s)

/-- `OR #imm` (R115, R73). -/
def execOrImm (imm : Byte) (s : State) : Outcome := withSrc (.imm imm) s fun m => .next (aluOr m s)

/-- `OR dp` (R115, R74). -/
def execOrDp (dp : Byte) (s : State) : Outcome := withSrc (.mem (.dp dp)) s fun m => .next (aluOr m s)

/-- `OR dp+X` (R115, R76). -/
def execOrDpX (dp : Byte) (s : State) : Outcome := withSrc (.mem (.dpX dp)) s fun m => .next (aluOr m s)

/-- `OR !abs` (R115, R75). -/
def execOrAbs (addr : Word) (s : State) : Outcome := withSrc (.mem (.abs addr)) s fun m => .next (aluOr m s)

/-- `OR {X}` (R115, R79). -/
def execOrIndX (s : State) : Outcome := withSrc (.mem .indX) s fun m => .next (aluOr m s)

/-- `OR !abs+Y` (R115, R78). -/
def execOrAbsY (addr : Word) (s : State) : Outcome := withSrc (.mem (.absY addr)) s fun m => .next (aluOr m s)

/-- `OR [dp+X]` (R115, R82). -/
def execOrIndDpX (dp : Byte) (s : State) : Outcome := withSrc (.mem (.indDpX dp)) s fun m => .next (aluOr m s)

/-- `OR [dp]+Y` (R115, R83). -/
def execOrIndDpY (dp : Byte) (s : State) : Outcome := withSrc (.mem (.indDpY dp)) s fun m => .next (aluOr m s)

/-- `AND #imm` (R101, R73). -/
def execAndImm (imm : Byte) (s : State) : Outcome := withSrc (.imm imm) s fun m => .next (aluAnd m s)

/-- `AND dp` (R101, R74). -/
def execAndDp (dp : Byte) (s : State) : Outcome := withSrc (.mem (.dp dp)) s fun m => .next (aluAnd m s)

/-- `AND dp+X` (R101, R76). -/
def execAndDpX (dp : Byte) (s : State) : Outcome := withSrc (.mem (.dpX dp)) s fun m => .next (aluAnd m s)

/-- `AND !abs` (R101, R75). -/
def execAndAbs (addr : Word) (s : State) : Outcome := withSrc (.mem (.abs addr)) s fun m => .next (aluAnd m s)

/-- `AND {X}` (R101, R79). -/
def execAndIndX (s : State) : Outcome := withSrc (.mem .indX) s fun m => .next (aluAnd m s)

/-- `AND !abs+Y` (R101, R78). -/
def execAndAbsY (addr : Word) (s : State) : Outcome :=
  withSrc (.mem (.absY addr)) s fun m => .next (aluAnd m s)

/-- `AND [dp+X]` (R101, R82). -/
def execAndIndDpX (dp : Byte) (s : State) : Outcome :=
  withSrc (.mem (.indDpX dp)) s fun m => .next (aluAnd m s)

/-- `AND [dp]+Y` (R101, R83). -/
def execAndIndDpY (dp : Byte) (s : State) : Outcome :=
  withSrc (.mem (.indDpY dp)) s fun m => .next (aluAnd m s)

/-- `EOR #imm` (R111, R73). -/
def execEorImm (imm : Byte) (s : State) : Outcome := withSrc (.imm imm) s fun m => .next (aluEor m s)

/-- `EOR dp` (R111, R74). -/
def execEorDp (dp : Byte) (s : State) : Outcome := withSrc (.mem (.dp dp)) s fun m => .next (aluEor m s)

/-- `EOR dp+X` (R111, R76). -/
def execEorDpX (dp : Byte) (s : State) : Outcome := withSrc (.mem (.dpX dp)) s fun m => .next (aluEor m s)

/-- `EOR !abs` (R111, R75). -/
def execEorAbs (addr : Word) (s : State) : Outcome := withSrc (.mem (.abs addr)) s fun m => .next (aluEor m s)

/-- `EOR {X}` (R111, R79). -/
def execEorIndX (s : State) : Outcome := withSrc (.mem .indX) s fun m => .next (aluEor m s)

/-- `EOR !abs+Y` (R111, R78). -/
def execEorAbsY (addr : Word) (s : State) : Outcome :=
  withSrc (.mem (.absY addr)) s fun m => .next (aluEor m s)

/-- `EOR [dp+X]` (R111, R82). -/
def execEorIndDpX (dp : Byte) (s : State) : Outcome :=
  withSrc (.mem (.indDpX dp)) s fun m => .next (aluEor m s)

/-- `EOR [dp]+Y` (R111, R83). -/
def execEorIndDpY (dp : Byte) (s : State) : Outcome :=
  withSrc (.mem (.indDpY dp)) s fun m => .next (aluEor m s)

/-- `ASL A` (R102, R71). -/
def execAslA (s : State) : Outcome := .next (shiftA .asl s)

/-- `ASL dp` (R102, R74). -/
def execAslDp (dp : Byte) (s : State) : Outcome := shiftMem .asl (.dp dp) s

/-- `ASL !abs` (R102, R75). -/
def execAslAbs (addr : Word) (s : State) : Outcome := shiftMem .asl (.abs addr) s

/-- `ASL dp+X` (R102, R76). -/
def execAslDpX (dp : Byte) (s : State) : Outcome := shiftMem .asl (.dpX dp) s

/-- `ROL A` (R116, R71). -/
def execRolA (s : State) : Outcome := .next (shiftA .rol s)

/-- `ROL dp` (R116, R74). -/
def execRolDp (dp : Byte) (s : State) : Outcome := shiftMem .rol (.dp dp) s

/-- `ROL !abs` (R116, R75). -/
def execRolAbs (addr : Word) (s : State) : Outcome := shiftMem .rol (.abs addr) s

/-- `ROL dp+X` (R116, R76). -/
def execRolDpX (dp : Byte) (s : State) : Outcome := shiftMem .rol (.dpX dp) s

/-- `LSR A` (R113, R71). -/
def execLsrA (s : State) : Outcome := .next (shiftA .lsr s)

/-- `LSR dp` (R113, R74). -/
def execLsrDp (dp : Byte) (s : State) : Outcome := shiftMem .lsr (.dp dp) s

/-- `LSR !abs` (R113, R75). -/
def execLsrAbs (addr : Word) (s : State) : Outcome := shiftMem .lsr (.abs addr) s

/-- `LSR dp+X` (R113, R76). -/
def execLsrDpX (dp : Byte) (s : State) : Outcome := shiftMem .lsr (.dpX dp) s

/-- `ROR A` (R117, R71). -/
def execRorA (s : State) : Outcome := .next (shiftA .ror s)

/-- `ROR dp` (R117, R74). -/
def execRorDp (dp : Byte) (s : State) : Outcome := shiftMem .ror (.dp dp) s

/-- `ROR !abs` (R117, R75). -/
def execRorAbs (addr : Word) (s : State) : Outcome := shiftMem .ror (.abs addr) s

/-- `ROR dp+X` (R117, R76). -/
def execRorDpX (dp : Byte) (s : State) : Outcome := shiftMem .ror (.dpX dp) s

/-- `INC A` (R112, R71). -/
def execIncA (s : State) : Outcome := .next ((loadA (s.a + 1#8) s).drawFlag .c)

/-- `INC dp` (R112, R74). -/
def execIncDp (dp : Byte) (s : State) : Outcome := incMem (.dp dp) s

/-- `INC !abs` (R112, R75). -/
def execIncAbs (addr : Word) (s : State) : Outcome := incMem (.abs addr) s

/-- `INC dp+X` (R112, R76). -/
def execIncDpX (dp : Byte) (s : State) : Outcome := incMem (.dpX dp) s

/-- `DEC A` (R109, R71). -/
def execDecA (s : State) : Outcome := .next (loadA (s.a - 1#8) s)

/-- `DEC dp` (R109, R74). -/
def execDecDp (dp : Byte) (s : State) : Outcome := decMem (.dp dp) s

/-- `DEC !abs` (R109, R75). -/
def execDecAbs (addr : Word) (s : State) : Outcome := decMem (.abs addr) s

/-- `DEC dp+X` (R109, R76). -/
def execDecDpX (dp : Byte) (s : State) : Outcome := decMem (.dpX dp) s

/-- `INC X` (R112, R71). -/
def execIncX (s : State) : Outcome := .next (loadX (s.x + 1#8) s)

/-- `DEC X` (R109, R71). -/
def execDecX (s : State) : Outcome := .next (loadX (s.x - 1#8) s)

/-- `INC Y` (R112, R71). -/
def execIncY (s : State) : Outcome := .next (loadY (s.y + 1#8) s)

/-- `DEC Y` (R109, R71). -/
def execDecY (s : State) : Outcome := .next (loadY (s.y - 1#8) s)

/-- `CMPX #imm` (R104, R73). -/
def execCmpxImm (imm : Byte) (s : State) : Outcome := withSrc (.imm imm) s fun m => .next (cmpX m s)

/-- `CMPX dp` (R104, R74). -/
def execCmpxDp (dp : Byte) (s : State) : Outcome := withSrc (.mem (.dp dp)) s fun m => .next (cmpX m s)

/-- `CMPX !abs` (R104, R75). -/
def execCmpxAbs (addr : Word) (s : State) : Outcome := withSrc (.mem (.abs addr)) s fun m => .next (cmpX m s)

/-- `CMPY #imm` (R105, R73). -/
def execCmpyImm (imm : Byte) (s : State) : Outcome := withSrc (.imm imm) s fun m => .next (cmpY m s)

/-- `CMPY dp` (R105, R74). -/
def execCmpyDp (dp : Byte) (s : State) : Outcome := withSrc (.mem (.dp dp)) s fun m => .next (cmpY m s)

/-- `CMPY !abs` (R105, R75). -/
def execCmpyAbs (addr : Word) (s : State) : Outcome := withSrc (.mem (.abs addr)) s fun m => .next (cmpY m s)

/-- `COM dp` (R106, R74). -/
def execCom (dp : Byte) (s : State) : Outcome :=
  modifyMode (.dp dp) (fun v => ~~~v) (fun v t => t.setNZ8 (~~~v)) s

/-- `TST dp` (R119, R74). -/
def execTst (dp : Byte) (s : State) : Outcome := withSrc (.mem (.dp dp)) s fun m => .next (s.setNZ8 m)

/-- `XCN` (R120, R71). -/
def execXcn (s : State) : Outcome := .next (loadA (s.a.extractLsb' 0 4 ++ s.a.extractLsb' 4 4) s)

/-- `DAS` (R108, R71). -/
def execDas (s : State) : Outcome := .next (adjustA (dasFn s.a (s.flag .c) (s.flag .h)) s)

/-- `DAA` (R107, R71). -/
def execDaa (s : State) : Outcome := .next (adjustA (daaFn s.a (s.flag .c) (s.flag .h)) s)

/-- `MUL` (R114, R71). -/
def execMul (s : State) : Outcome :=
  .next (((s.setYA (BitVec.ofNat 16 (s.y.toNat * s.a.toNat))).drawFlag .n).drawFlag .z)

/-- `DIV` (R110, R71). -/
def execDiv (s : State) : Outcome := .next (if s.y.toNat < s.x.toNat then divideExact s else divideOverflow s)

end Sys2Proof.Machine
end

