-- ==== Sys2Proof/Machine/Transfer.lean ====
section
/-! DEFINITION. Register and memory transfer instructions (42_register_memory.md, R130 to R146). -/

namespace Sys2Proof.Machine

/-- XMA (R145): one read, one write, then A takes the old byte and N and Z are set from it (D24). -/
def exchangeA (m : Mode) (s : State) : Outcome := modifyMode m (fun _ => s.a) (fun v t => loadA v t) s

/-- `LDA #imm` (R130, R73). -/
def execLdaImm (imm : Byte) (s : State) : Outcome := withSrc (.imm imm) s fun m => .next (loadA m s)

/-- `LDA dp` (R130, R74). -/
def execLdaDp (dp : Byte) (s : State) : Outcome := withSrc (.mem (.dp dp)) s fun m => .next (loadA m s)

/-- `LDA dp+X` (R130, R76). -/
def execLdaDpX (dp : Byte) (s : State) : Outcome := withSrc (.mem (.dpX dp)) s fun m => .next (loadA m s)

/-- `LDA !abs` (R130, R75). -/
def execLdaAbs (addr : Word) (s : State) : Outcome := withSrc (.mem (.abs addr)) s fun m => .next (loadA m s)

/-- `LDA {X}` (R130, R79). -/
def execLdaIndX (s : State) : Outcome := withSrc (.mem .indX) s fun m => .next (loadA m s)

/-- `LDA !abs+Y` (R130, R78). -/
def execLdaAbsY (addr : Word) (s : State) : Outcome :=
  withSrc (.mem (.absY addr)) s fun m => .next (loadA m s)

/-- `LDA [dp+X]` (R130, R82). -/
def execLdaIndDpX (dp : Byte) (s : State) : Outcome :=
  withSrc (.mem (.indDpX dp)) s fun m => .next (loadA m s)

/-- `LDA [dp]+Y` (R130, R83). -/
def execLdaIndDpY (dp : Byte) (s : State) : Outcome :=
  withSrc (.mem (.indDpY dp)) s fun m => .next (loadA m s)

/-- `STA dp` (R134, R74). -/
def execStaDp (dp : Byte) (s : State) : Outcome := storeMode (.dp dp) s.a s fun t => .next t

/-- `STA dp+X` (R134, R76). -/
def execStaDpX (dp : Byte) (s : State) : Outcome := storeMode (.dpX dp) s.a s fun t => .next t

/-- `STA !abs` (R134, R75). -/
def execStaAbs (addr : Word) (s : State) : Outcome := storeMode (.abs addr) s.a s fun t => .next t

/-- `STA {X}` (R134, R79). -/
def execStaIndX (s : State) : Outcome := storeMode .indX s.a s fun t => .next t

/-- `STA !abs+Y` (R134, R78). -/
def execStaAbsY (addr : Word) (s : State) : Outcome := storeMode (.absY addr) s.a s fun t => .next t

/-- `STA [dp+X]` (R134, R82). -/
def execStaIndDpX (dp : Byte) (s : State) : Outcome := storeMode (.indDpX dp) s.a s fun t => .next t

/-- `STA [dp]+Y` (R134, R83). -/
def execStaIndDpY (dp : Byte) (s : State) : Outcome := storeMode (.indDpY dp) s.a s fun t => .next t

/-- `LDM dp,#imm` (R131, R95). -/
def execLdm (imm : Byte) (dp : Byte) (s : State) : Outcome := storeMode (.dp dp) imm s fun t => .next t

/-- `LDA {X}+` (R130, R80). -/
def execLdaIndXInc (s : State) : Outcome :=
  withSrc (.mem .indX) s fun m => .next { loadA m s with x := s.x + 1#8 }

/-- `STA {X}+` (R134, R80). -/
def execStaIndXInc (s : State) : Outcome := storeMode .indX s.a s fun t => .next { t with x := t.x + 1#8 }

/-- `LDY #imm` (R133, R73). -/
def execLdyImm (imm : Byte) (s : State) : Outcome := withSrc (.imm imm) s fun m => .next (loadY m s)

/-- `LDY dp` (R133, R74). -/
def execLdyDp (dp : Byte) (s : State) : Outcome := withSrc (.mem (.dp dp)) s fun m => .next (loadY m s)

/-- `LDY !abs` (R133, R75). -/
def execLdyAbs (addr : Word) (s : State) : Outcome := withSrc (.mem (.abs addr)) s fun m => .next (loadY m s)

/-- `LDY dp+X` (R133, R76). -/
def execLdyDpX (dp : Byte) (s : State) : Outcome := withSrc (.mem (.dpX dp)) s fun m => .next (loadY m s)

/-- `STY dp` (R136, R74). -/
def execStyDp (dp : Byte) (s : State) : Outcome := storeMode (.dp dp) s.y s fun t => .next t

/-- `STY !abs` (R136, R75). -/
def execStyAbs (addr : Word) (s : State) : Outcome := storeMode (.abs addr) s.y s fun t => .next t

/-- `STY dp+X` (R136, R76). -/
def execStyDpX (dp : Byte) (s : State) : Outcome := storeMode (.dpX dp) s.y s fun t => .next t

/-- `LDX #imm` (R132, R73). -/
def execLdxImm (imm : Byte) (s : State) : Outcome := withSrc (.imm imm) s fun m => .next (loadX m s)

/-- `LDX dp` (R132, R74). -/
def execLdxDp (dp : Byte) (s : State) : Outcome := withSrc (.mem (.dp dp)) s fun m => .next (loadX m s)

/-- `LDX dp+Y` (R132, R77). -/
def execLdxDpY (dp : Byte) (s : State) : Outcome := withSrc (.mem (.dpY dp)) s fun m => .next (loadX m s)

/-- `LDX !abs` (R132, R75). -/
def execLdxAbs (addr : Word) (s : State) : Outcome := withSrc (.mem (.abs addr)) s fun m => .next (loadX m s)

/-- `STX dp` (R135, R74). -/
def execStxDp (dp : Byte) (s : State) : Outcome := storeMode (.dp dp) s.x s fun t => .next t

/-- `STX dp+Y` (R135, R77). -/
def execStxDpY (dp : Byte) (s : State) : Outcome := storeMode (.dpY dp) s.x s fun t => .next t

/-- `STX !abs` (R135, R75). -/
def execStxAbs (addr : Word) (s : State) : Outcome := storeMode (.abs addr) s.x s fun t => .next t

/-- `XMA dp` (R145, R74). -/
def execXmaDp (dp : Byte) (s : State) : Outcome := exchangeA (.dp dp) s

/-- `XMA dp+X` (R145, R76). -/
def execXmaDpX (dp : Byte) (s : State) : Outcome := exchangeA (.dpX dp) s

/-- `XMA {X}` (R145, R79). -/
def execXmaIndX (s : State) : Outcome := exchangeA .indX s

/-- `TXSP` (R141, R71). -/
def execTxsp (s : State) : Outcome := .next (({ s with sp := s.x }.drawFlag .n).drawFlag .z)

/-- `TSPX` (R139, R71). -/
def execTspx (s : State) : Outcome := .next (loadX s.sp s)

/-- `XAX` (R143, R71). -/
def execXax (s : State) : Outcome := .next { s with a := s.x, x := s.a }

/-- `XAY` (R144, R71). -/
def execXay (s : State) : Outcome := .next { s with a := s.y, y := s.a }

/-- `XYX` (R146, R71). -/
def execXyx (s : State) : Outcome := .next { s with x := s.y, y := s.x }

/-- `TAY` (R138, R71). -/
def execTay (s : State) : Outcome := .next (loadY s.a s)

/-- `TYA` (R142, R71). -/
def execTya (s : State) : Outcome := .next (loadA s.y s)

/-- `TXA` (R140, R71). -/
def execTxa (s : State) : Outcome := .next (loadA s.x s)

/-- `TAX` (R137, R71). -/
def execTax (s : State) : Outcome := .next (loadX s.a s)

end Sys2Proof.Machine
end

