-- ==== Sys2Proof/Machine/Dispatch.lean ====
section
/-! DEFINITION. The meaning of every instruction: one arm for each constructor of Instr. -/

namespace Sys2Proof.Machine

def exec (i : Instr) (s : State) : Host.Outcome State Fault Refusal :=
  match i with
  | .adcImm imm => Sys2Proof.Machine.execAdcImm imm s
  | .adcDp dp => Sys2Proof.Machine.execAdcDp dp s
  | .adcDpX dp => Sys2Proof.Machine.execAdcDpX dp s
  | .adcAbs addr => Sys2Proof.Machine.execAdcAbs addr s
  | .adcIndX => Sys2Proof.Machine.execAdcIndX s
  | .adcAbsY addr => Sys2Proof.Machine.execAdcAbsY addr s
  | .adcIndDpX dp => Sys2Proof.Machine.execAdcIndDpX dp s
  | .adcIndDpY dp => Sys2Proof.Machine.execAdcIndDpY dp s
  | .sbcImm imm => Sys2Proof.Machine.execSbcImm imm s
  | .sbcDp dp => Sys2Proof.Machine.execSbcDp dp s
  | .sbcDpX dp => Sys2Proof.Machine.execSbcDpX dp s
  | .sbcAbs addr => Sys2Proof.Machine.execSbcAbs addr s
  | .sbcIndX => Sys2Proof.Machine.execSbcIndX s
  | .sbcAbsY addr => Sys2Proof.Machine.execSbcAbsY addr s
  | .sbcIndDpX dp => Sys2Proof.Machine.execSbcIndDpX dp s
  | .sbcIndDpY dp => Sys2Proof.Machine.execSbcIndDpY dp s
  | .cmpImm imm => Sys2Proof.Machine.execCmpImm imm s
  | .cmpDp dp => Sys2Proof.Machine.execCmpDp dp s
  | .cmpDpX dp => Sys2Proof.Machine.execCmpDpX dp s
  | .cmpAbs addr => Sys2Proof.Machine.execCmpAbs addr s
  | .cmpIndX => Sys2Proof.Machine.execCmpIndX s
  | .cmpAbsY addr => Sys2Proof.Machine.execCmpAbsY addr s
  | .cmpIndDpX dp => Sys2Proof.Machine.execCmpIndDpX dp s
  | .cmpIndDpY dp => Sys2Proof.Machine.execCmpIndDpY dp s
  | .orImm imm => Sys2Proof.Machine.execOrImm imm s
  | .orDp dp => Sys2Proof.Machine.execOrDp dp s
  | .orDpX dp => Sys2Proof.Machine.execOrDpX dp s
  | .orAbs addr => Sys2Proof.Machine.execOrAbs addr s
  | .orIndX => Sys2Proof.Machine.execOrIndX s
  | .orAbsY addr => Sys2Proof.Machine.execOrAbsY addr s
  | .orIndDpX dp => Sys2Proof.Machine.execOrIndDpX dp s
  | .orIndDpY dp => Sys2Proof.Machine.execOrIndDpY dp s
  | .andImm imm => Sys2Proof.Machine.execAndImm imm s
  | .andDp dp => Sys2Proof.Machine.execAndDp dp s
  | .andDpX dp => Sys2Proof.Machine.execAndDpX dp s
  | .andAbs addr => Sys2Proof.Machine.execAndAbs addr s
  | .andIndX => Sys2Proof.Machine.execAndIndX s
  | .andAbsY addr => Sys2Proof.Machine.execAndAbsY addr s
  | .andIndDpX dp => Sys2Proof.Machine.execAndIndDpX dp s
  | .andIndDpY dp => Sys2Proof.Machine.execAndIndDpY dp s
  | .eorImm imm => Sys2Proof.Machine.execEorImm imm s
  | .eorDp dp => Sys2Proof.Machine.execEorDp dp s
  | .eorDpX dp => Sys2Proof.Machine.execEorDpX dp s
  | .eorAbs addr => Sys2Proof.Machine.execEorAbs addr s
  | .eorIndX => Sys2Proof.Machine.execEorIndX s
  | .eorAbsY addr => Sys2Proof.Machine.execEorAbsY addr s
  | .eorIndDpX dp => Sys2Proof.Machine.execEorIndDpX dp s
  | .eorIndDpY dp => Sys2Proof.Machine.execEorIndDpY dp s
  | .ldaImm imm => Sys2Proof.Machine.execLdaImm imm s
  | .ldaDp dp => Sys2Proof.Machine.execLdaDp dp s
  | .ldaDpX dp => Sys2Proof.Machine.execLdaDpX dp s
  | .ldaAbs addr => Sys2Proof.Machine.execLdaAbs addr s
  | .ldaIndX => Sys2Proof.Machine.execLdaIndX s
  | .ldaAbsY addr => Sys2Proof.Machine.execLdaAbsY addr s
  | .ldaIndDpX dp => Sys2Proof.Machine.execLdaIndDpX dp s
  | .ldaIndDpY dp => Sys2Proof.Machine.execLdaIndDpY dp s
  | .staDp dp => Sys2Proof.Machine.execStaDp dp s
  | .staDpX dp => Sys2Proof.Machine.execStaDpX dp s
  | .staAbs addr => Sys2Proof.Machine.execStaAbs addr s
  | .staIndX => Sys2Proof.Machine.execStaIndX s
  | .staAbsY addr => Sys2Proof.Machine.execStaAbsY addr s
  | .staIndDpX dp => Sys2Proof.Machine.execStaIndDpX dp s
  | .staIndDpY dp => Sys2Proof.Machine.execStaIndDpY dp s
  | .ldm imm dp => Sys2Proof.Machine.execLdm imm dp s
  | .ldaIndXInc => Sys2Proof.Machine.execLdaIndXInc s
  | .staIndXInc => Sys2Proof.Machine.execStaIndXInc s
  | .aslA => Sys2Proof.Machine.execAslA s
  | .aslDp dp => Sys2Proof.Machine.execAslDp dp s
  | .aslAbs addr => Sys2Proof.Machine.execAslAbs addr s
  | .aslDpX dp => Sys2Proof.Machine.execAslDpX dp s
  | .rolA => Sys2Proof.Machine.execRolA s
  | .rolDp dp => Sys2Proof.Machine.execRolDp dp s
  | .rolAbs addr => Sys2Proof.Machine.execRolAbs addr s
  | .rolDpX dp => Sys2Proof.Machine.execRolDpX dp s
  | .lsrA => Sys2Proof.Machine.execLsrA s
  | .lsrDp dp => Sys2Proof.Machine.execLsrDp dp s
  | .lsrAbs addr => Sys2Proof.Machine.execLsrAbs addr s
  | .lsrDpX dp => Sys2Proof.Machine.execLsrDpX dp s
  | .rorA => Sys2Proof.Machine.execRorA s
  | .rorDp dp => Sys2Proof.Machine.execRorDp dp s
  | .rorAbs addr => Sys2Proof.Machine.execRorAbs addr s
  | .rorDpX dp => Sys2Proof.Machine.execRorDpX dp s
  | .incA => Sys2Proof.Machine.execIncA s
  | .incDp dp => Sys2Proof.Machine.execIncDp dp s
  | .incAbs addr => Sys2Proof.Machine.execIncAbs addr s
  | .incDpX dp => Sys2Proof.Machine.execIncDpX dp s
  | .decA => Sys2Proof.Machine.execDecA s
  | .decDp dp => Sys2Proof.Machine.execDecDp dp s
  | .decAbs addr => Sys2Proof.Machine.execDecAbs addr s
  | .decDpX dp => Sys2Proof.Machine.execDecDpX dp s
  | .incX => Sys2Proof.Machine.execIncX s
  | .decX => Sys2Proof.Machine.execDecX s
  | .incY => Sys2Proof.Machine.execIncY s
  | .decY => Sys2Proof.Machine.execDecY s
  | .ldyImm imm => Sys2Proof.Machine.execLdyImm imm s
  | .ldyDp dp => Sys2Proof.Machine.execLdyDp dp s
  | .ldyAbs addr => Sys2Proof.Machine.execLdyAbs addr s
  | .ldyDpX dp => Sys2Proof.Machine.execLdyDpX dp s
  | .styDp dp => Sys2Proof.Machine.execStyDp dp s
  | .styAbs addr => Sys2Proof.Machine.execStyAbs addr s
  | .styDpX dp => Sys2Proof.Machine.execStyDpX dp s
  | .ldxImm imm => Sys2Proof.Machine.execLdxImm imm s
  | .ldxDp dp => Sys2Proof.Machine.execLdxDp dp s
  | .ldxDpY dp => Sys2Proof.Machine.execLdxDpY dp s
  | .ldxAbs addr => Sys2Proof.Machine.execLdxAbs addr s
  | .stxDp dp => Sys2Proof.Machine.execStxDp dp s
  | .stxDpY dp => Sys2Proof.Machine.execStxDpY dp s
  | .stxAbs addr => Sys2Proof.Machine.execStxAbs addr s
  | .cmpxImm imm => Sys2Proof.Machine.execCmpxImm imm s
  | .cmpxDp dp => Sys2Proof.Machine.execCmpxDp dp s
  | .cmpxAbs addr => Sys2Proof.Machine.execCmpxAbs addr s
  | .cmpyImm imm => Sys2Proof.Machine.execCmpyImm imm s
  | .cmpyDp dp => Sys2Proof.Machine.execCmpyDp dp s
  | .cmpyAbs addr => Sys2Proof.Machine.execCmpyAbs addr s
  | .bitDp dp => Sys2Proof.Machine.execBitDp dp s
  | .bitAbs addr => Sys2Proof.Machine.execBitAbs addr s
  | .com dp => Sys2Proof.Machine.execCom dp s
  | .tst dp => Sys2Proof.Machine.execTst dp s
  | .tset1 addr => Sys2Proof.Machine.execTset1 addr s
  | .tclr1 addr => Sys2Proof.Machine.execTclr1 addr s
  | .dbneDp dp rel => Sys2Proof.Machine.execDbneDp dp rel s
  | .dbneY rel => Sys2Proof.Machine.execDbneY rel s
  | .cbneDp dp rel => Sys2Proof.Machine.execCbneDp dp rel s
  | .cbneDpX dp rel => Sys2Proof.Machine.execCbneDpX dp rel s
  | .xmaDp dp => Sys2Proof.Machine.execXmaDp dp s
  | .xmaDpX dp => Sys2Proof.Machine.execXmaDpX dp s
  | .xmaIndX => Sys2Proof.Machine.execXmaIndX s
  | .popA => Sys2Proof.Machine.execPopA s
  | .popX => Sys2Proof.Machine.execPopX s
  | .popY => Sys2Proof.Machine.execPopY s
  | .popPsw => Sys2Proof.Machine.execPopPsw s
  | .pushA => Sys2Proof.Machine.execPushA s
  | .pushX => Sys2Proof.Machine.execPushX s
  | .pushY => Sys2Proof.Machine.execPushY s
  | .pushPsw => Sys2Proof.Machine.execPushPsw s
  | .txsp => Sys2Proof.Machine.execTxsp s
  | .tspx => Sys2Proof.Machine.execTspx s
  | .xcn => Sys2Proof.Machine.execXcn s
  | .xax => Sys2Proof.Machine.execXax s
  | .xay => Sys2Proof.Machine.execXay s
  | .xyx => Sys2Proof.Machine.execXyx s
  | .brk => Sys2Proof.Machine.execBrk s
  | .ret => Sys2Proof.Machine.execRet s
  | .das => Sys2Proof.Machine.execDas s
  | .stop => Sys2Proof.Machine.execStop s
  | .reti => Sys2Proof.Machine.execReti s
  | .tay => Sys2Proof.Machine.execTay s
  | .tya => Sys2Proof.Machine.execTya s
  | .daa => Sys2Proof.Machine.execDaa s
  | .nop => Sys2Proof.Machine.execNop s
  | .clrc => Sys2Proof.Machine.execClrc s
  | .clrg => Sys2Proof.Machine.execClrg s
  | .di => Sys2Proof.Machine.execDi s
  | .clrv => Sys2Proof.Machine.execClrv s
  | .setc => Sys2Proof.Machine.execSetc s
  | .setg => Sys2Proof.Machine.execSetg s
  | .ei => Sys2Proof.Machine.execEi s
  | .txa => Sys2Proof.Machine.execTxa s
  | .tax => Sys2Proof.Machine.execTax s
  | .mul => Sys2Proof.Machine.execMul s
  | .div => Sys2Proof.Machine.execDiv s
  | .bra rel => Sys2Proof.Machine.execBra rel s
  | .bpl rel => Sys2Proof.Machine.execBpl rel s
  | .bvc rel => Sys2Proof.Machine.execBvc rel s
  | .bcc rel => Sys2Proof.Machine.execBcc rel s
  | .bne rel => Sys2Proof.Machine.execBne rel s
  | .bmi rel => Sys2Proof.Machine.execBmi rel s
  | .bvs rel => Sys2Proof.Machine.execBvs rel s
  | .bcs rel => Sys2Proof.Machine.execBcs rel s
  | .beq rel => Sys2Proof.Machine.execBeq rel s
  | .pcall u => Sys2Proof.Machine.execPcall u s
  | .jmpAbs addr => Sys2Proof.Machine.execJmpAbs addr s
  | .jmpIndAbs addr => Sys2Proof.Machine.execJmpIndAbs addr s
  | .jmpIndDp dp => Sys2Proof.Machine.execJmpIndDp dp s
  | .callAbs addr => Sys2Proof.Machine.execCallAbs addr s
  | .callIndDp dp => Sys2Proof.Machine.execCallIndDp dp s
  | .addw dp => Sys2Proof.Machine.execAddw dp s
  | .subw dp => Sys2Proof.Machine.execSubw dp s
  | .cmpw dp => Sys2Proof.Machine.execCmpw dp s
  | .ldya dp => Sys2Proof.Machine.execLdya dp s
  | .incw dp => Sys2Proof.Machine.execIncw dp s
  | .decw dp => Sys2Proof.Machine.execDecw dp s
  | .stya dp => Sys2Proof.Machine.execStya dp s
  | .set1 b dp => Sys2Proof.Machine.execSet1 b dp s
  | .clr1 b dp => Sys2Proof.Machine.execClr1 b dp s
  | .bbsA b rel => Sys2Proof.Machine.execBbsA b rel s
  | .bbsDp b dp rel => Sys2Proof.Machine.execBbsDp b dp rel s
  | .bbcA b rel => Sys2Proof.Machine.execBbcA b rel s
  | .bbcDp b dp rel => Sys2Proof.Machine.execBbcDp b dp rel s
  | .tcall n => Sys2Proof.Machine.execTcall n s
  | .seta1 b => Sys2Proof.Machine.execSeta1 b s
  | .clra1 b => Sys2Proof.Machine.execClra1 b s
  | .not1 addr b => Sys2Proof.Machine.execNot1 addr b s
  | .or1 addr b => Sys2Proof.Machine.execOr1 addr b s
  | .or1b addr b => Sys2Proof.Machine.execOr1b addr b s
  | .and1 addr b => Sys2Proof.Machine.execAnd1 addr b s
  | .and1b addr b => Sys2Proof.Machine.execAnd1b addr b s
  | .eor1 addr b => Sys2Proof.Machine.execEor1 addr b s
  | .eor1b addr b => Sys2Proof.Machine.execEor1b addr b s
  | .ldc addr b => Sys2Proof.Machine.execLdc addr b s
  | .ldcb addr b => Sys2Proof.Machine.execLdcb addr b s
  | .stc addr b => Sys2Proof.Machine.execStc addr b s

end Sys2Proof.Machine
end

