-- ==== Sys2Proof/WellFormed.lean ====
section
/-! DEFINITION. Well-formed instructions. The widths of the operand fields leave one thing to check: an
`M.bit` address lies in `000h` to `FFFh` (R31, R91), so that its 12 bits encode it. -/

namespace Sys2Proof

/-- "The addressing memory space is 4k bytes in 000h~FFFh." (R91) -/
def mbitAddrOk (addr : Word) : Bool := decide (addr.toNat < 0x1000)

/-- The instruction has an encoding: one check for each `M.bit` form, none for the rest. -/
def Instr.wellFormed : Instr → Bool
  | .not1 addr _ => mbitAddrOk addr
  | .or1 addr _ => mbitAddrOk addr
  | .or1b addr _ => mbitAddrOk addr
  | .and1 addr _ => mbitAddrOk addr
  | .and1b addr _ => mbitAddrOk addr
  | .eor1 addr _ => mbitAddrOk addr
  | .eor1b addr _ => mbitAddrOk addr
  | .ldc addr _ => mbitAddrOk addr
  | .ldcb addr _ => mbitAddrOk addr
  | .stc addr _ => mbitAddrOk addr
  | .adcImm _ | .adcDp _ | .adcDpX _ | .adcAbs _ | .adcIndX | .adcAbsY _ | .adcIndDpX _
  | .adcIndDpY _ | .sbcImm _ | .sbcDp _ | .sbcDpX _ | .sbcAbs _ | .sbcIndX | .sbcAbsY _
  | .sbcIndDpX _ | .sbcIndDpY _ | .cmpImm _ | .cmpDp _ | .cmpDpX _ | .cmpAbs _ | .cmpIndX
  | .cmpAbsY _ | .cmpIndDpX _ | .cmpIndDpY _ | .orImm _ | .orDp _ | .orDpX _ | .orAbs _ | .orIndX
  | .orAbsY _ | .orIndDpX _ | .orIndDpY _ | .andImm _ | .andDp _ | .andDpX _ | .andAbs _ | .andIndX
  | .andAbsY _ | .andIndDpX _ | .andIndDpY _ | .eorImm _ | .eorDp _ | .eorDpX _ | .eorAbs _
  | .eorIndX | .eorAbsY _ | .eorIndDpX _ | .eorIndDpY _ | .ldaImm _ | .ldaDp _ | .ldaDpX _
  | .ldaAbs _ | .ldaIndX | .ldaAbsY _ | .ldaIndDpX _ | .ldaIndDpY _ | .staDp _ | .staDpX _
  | .staAbs _ | .staIndX | .staAbsY _ | .staIndDpX _ | .staIndDpY _ | .ldm _ _ | .ldaIndXInc
  | .staIndXInc | .aslA | .aslDp _ | .aslAbs _ | .aslDpX _ | .rolA | .rolDp _ | .rolAbs _
  | .rolDpX _ | .lsrA | .lsrDp _ | .lsrAbs _ | .lsrDpX _ | .rorA | .rorDp _ | .rorAbs _ | .rorDpX _
  | .incA | .incDp _ | .incAbs _ | .incDpX _ | .decA | .decDp _ | .decAbs _ | .decDpX _ | .incX
  | .decX | .incY | .decY | .ldyImm _ | .ldyDp _ | .ldyAbs _ | .ldyDpX _ | .styDp _ | .styAbs _
  | .styDpX _ | .ldxImm _ | .ldxDp _ | .ldxDpY _ | .ldxAbs _ | .stxDp _ | .stxDpY _ | .stxAbs _
  | .cmpxImm _ | .cmpxDp _ | .cmpxAbs _ | .cmpyImm _ | .cmpyDp _ | .cmpyAbs _ | .bitDp _
  | .bitAbs _ | .com _ | .tst _ | .tset1 _ | .tclr1 _ | .dbneDp _ _ | .dbneY _ | .cbneDp _ _
  | .cbneDpX _ _ | .xmaDp _ | .xmaDpX _ | .xmaIndX | .popA | .popX | .popY | .popPsw | .pushA
  | .pushX | .pushY | .pushPsw | .txsp | .tspx | .xcn | .xax | .xay | .xyx | .brk | .ret | .das
  | .stop | .reti | .tay | .tya | .daa | .nop | .clrc | .clrg | .di | .clrv | .setc | .setg | .ei
  | .txa | .tax | .mul | .div | .bra _ | .bpl _ | .bvc _ | .bcc _ | .bne _ | .bmi _ | .bvs _
  | .bcs _ | .beq _ | .pcall _ | .jmpAbs _ | .jmpIndAbs _ | .jmpIndDp _ | .callAbs _ | .callIndDp _
  | .addw _ | .subw _ | .cmpw _ | .ldya _ | .incw _ | .decw _ | .stya _ | .set1 _ _ | .clr1 _ _
  | .bbsA _ _ | .bbsDp _ _ _ | .bbcA _ _ | .bbcDp _ _ _ | .tcall _ | .seta1 _ | .clra1 _ => true

end Sys2Proof
end

