-- ==== Sys2Proof/Decode.lean ====
section
/-! DEFINITION. Decoding and encoding (30_encoding.md). The opcode map is written row by row as R58 prints
it; the first byte alone decides form and length (R50). Decoding is total: a byte sequence that stands for
no instruction is rejected by name (R61, R62). -/

namespace Sys2Proof

open Machine

/-- Why a byte sequence is no instruction. -/
inductive DecodeError
  /-- op code `00h`, the one unassigned value (R61, D5) -/
  | illegalOpcode (op : Byte)
  /-- SETA1 or CLRA1 with operand bits 4 to 0 not zero, NOT1 or STC with the reversal bit set (R62, D6, D7) -/
  | reservedOperandBits (op : Byte) (operand : Byte)
  /-- the bytes end before the instruction does -/
  | truncated
  deriving DecidableEq, Repr

/-- What an op code selects (R50): an instruction of one byte, or of two or three bytes whose operand bytes
complete it; `none` is a reserved operand bit set (R62). -/
inductive Form
  | one (i : Instr)
  | two (k : Byte → Option Instr)
  | three (k : Byte → Byte → Option Instr)

/-- The number of bytes of an instruction of this form (R50). -/
def Form.length : Form → Nat
  | .one _ => 1
  | .two _ => 2
  | .three _ => 3

/-- Formats INH and TCALL (R51): the op code alone. -/
def inh (i : Instr) : Option Form := some (.one i)

/-- Formats IMM, DP, DPBIT, REL, ABITREL and UPAGE (R51): one operand byte. -/
def op1 (f : Byte → Instr) : Option Form := some (.two fun v => some (f v))

/-- Formats DPREL, DPBITREL and IMMDP (R51): two operand bytes, in the order of the format line. -/
def op2 (f : Byte → Byte → Instr) : Option Form := some (.three fun v w => some (f v w))

/-- Format ABS (R51, R53): the lower address byte, then the upper. -/
def opAbs (f : Word → Instr) : Option Form := some (.three fun lo hi => some (f (mkWord hi lo)))

/-- Format ABIT (R51, R56): the bit number in operand bits 7 to 5, bits 4 to 0 zero (D7). -/
def opABit (f : BitNo → Instr) : Option Form :=
  some (.two fun v => if v &&& 0x1F = 0 then some (f (upperBitNo v)) else none)

/-- Format MBIT of an op code with two mnemonics (R57): bit 4 of operand 2 selects the second, reversed. -/
def opMBit (f g : Word → BitNo → Instr) : Option Form :=
  some (.three fun lo op2 =>
    some (if op2.getLsbD 4 then g (mbitAddr op2 lo) (upperBitNo op2) else f (mbitAddr op2 lo) (upperBitNo op2)))

/-- Format MBIT of NOT1 and STC, which have no reversed form: the reversal bit must be 0 (R57, R62, D6). -/
def opMBitPlain (f : Word → BitNo → Instr) : Option Form :=
  some (.three fun lo op2 => if op2.getLsbD 4 then none else some (f (mbitAddr op2 lo) (upperBitNo op2)))

/-- Row 0x of the opcode map (R58). -/
def opcodeRow0 : List (Option Form) :=
  [none, op1 (.set1 0), op1 (.bbsA 0), op2 (.bbsDp 0),
   op1 .adcImm, op1 .adcDp, op1 .adcDpX, opAbs .adcAbs,
   inh .aslA, op1 .aslDp, inh (.tcall 0), opABit .seta1,
   op1 .bitDp, inh .popA, inh .pushA, inh .brk]

/-- Row 1x of the opcode map (R58). -/
def opcodeRow1 : List (Option Form) :=
  [op1 .bpl, op1 (.clr1 0), op1 (.bbcA 0), op2 (.bbcDp 0),
   inh .adcIndX, opAbs .adcAbsY, op1 .adcIndDpX, op1 .adcIndDpY,
   opAbs .aslAbs, op1 .aslDpX, inh (.tcall 1), opAbs .jmpAbs,
   opAbs .bitAbs, op1 .addw, op1 .ldxImm, opAbs .jmpIndAbs]

/-- Row 2x of the opcode map (R58). -/
def opcodeRow2 : List (Option Form) :=
  [inh .clrc, op1 (.set1 1), op1 (.bbsA 1), op2 (.bbsDp 1),
   op1 .sbcImm, op1 .sbcDp, op1 .sbcDpX, opAbs .sbcAbs,
   inh .rolA, op1 .rolDp, inh (.tcall 2), opABit .clra1,
   op1 .com, inh .popX, inh .pushX, op1 .bra]

/-- Row 3x of the opcode map (R58). -/
def opcodeRow3 : List (Option Form) :=
  [op1 .bvc, op1 (.clr1 1), op1 (.bbcA 1), op2 (.bbcDp 1),
   inh .sbcIndX, opAbs .sbcAbsY, op1 .sbcIndDpX, op1 .sbcIndDpY,
   opAbs .rolAbs, op1 .rolDpX, inh (.tcall 3), opAbs .callAbs,
   opAbs .tset1, op1 .subw, op1 .ldyImm, op1 .jmpIndDp]

/-- Row 4x of the opcode map (R58). -/
def opcodeRow4 : List (Option Form) :=
  [inh .clrg, op1 (.set1 2), op1 (.bbsA 2), op2 (.bbsDp 2),
   op1 .cmpImm, op1 .cmpDp, op1 .cmpDpX, opAbs .cmpAbs,
   inh .lsrA, op1 .lsrDp, inh (.tcall 4), opMBitPlain .not1,
   op1 .tst, inh .popY, inh .pushY, op1 .pcall]

/-- Row 5x of the opcode map (R58). -/
def opcodeRow5 : List (Option Form) :=
  [op1 .bcc, op1 (.clr1 2), op1 (.bbcA 2), op2 (.bbcDp 2),
   inh .cmpIndX, opAbs .cmpAbsY, op1 .cmpIndDpX, op1 .cmpIndDpY,
   opAbs .lsrAbs, op1 .lsrDpX, inh (.tcall 5), inh .mul,
   opAbs .tclr1, op1 .cmpw, op1 .cmpxImm, op1 .callIndDp]

/-- Row 6x of the opcode map (R58). -/
def opcodeRow6 : List (Option Form) :=
  [inh .di, op1 (.set1 3), op1 (.bbsA 3), op2 (.bbsDp 3),
   op1 .orImm, op1 .orDp, op1 .orDpX, opAbs .orAbs,
   inh .rorA, op1 .rorDp, inh (.tcall 6), opMBit .or1 .or1b,
   op1 .cmpxDp, inh .popPsw, inh .pushPsw, inh .ret]

/-- Row 7x of the opcode map (R58). -/
def opcodeRow7 : List (Option Form) :=
  [op1 .bne, op1 (.clr1 3), op1 (.bbcA 3), op2 (.bbcDp 3),
   inh .orIndX, opAbs .orAbsY, op1 .orIndDpX, op1 .orIndDpY,
   opAbs .rorAbs, op1 .rorDpX, inh (.tcall 7), op1 .dbneY,
   opAbs .cmpxAbs, op1 .ldya, op1 .cmpyImm, inh .reti]

/-- Row 8x of the opcode map (R58). -/
def opcodeRow8 : List (Option Form) :=
  [inh .clrv, op1 (.set1 4), op1 (.bbsA 4), op2 (.bbsDp 4),
   op1 .andImm, op1 .andDp, op1 .andDpX, opAbs .andAbs,
   inh .incA, op1 .incDp, inh (.tcall 8), opMBit .and1 .and1b,
   op1 .cmpyDp, op2 .cbneDpX, inh .txsp, inh .incX]

/-- Row 9x of the opcode map (R58). -/
def opcodeRow9 : List (Option Form) :=
  [op1 .bmi, op1 (.clr1 4), op1 (.bbcA 4), op2 (.bbcDp 4),
   inh .andIndX, opAbs .andAbsY, op1 .andIndDpX, op1 .andIndDpY,
   opAbs .incAbs, op1 .incDpX, inh (.tcall 9), inh .div,
   opAbs .cmpyAbs, op1 .incw, inh .incY, inh .tay]

/-- Row Ax of the opcode map (R58). -/
def opcodeRowA : List (Option Form) :=
  [inh .setc, op1 (.set1 5), op1 (.bbsA 5), op2 (.bbsDp 5),
   op1 .eorImm, op1 .eorDp, op1 .eorDpX, opAbs .eorAbs,
   inh .decA, op1 .decDp, inh (.tcall 10), opMBit .eor1 .eor1b,
   op2 .dbneDp, op1 .xmaDpX, inh .tspx, inh .decX]

/-- Row Bx of the opcode map (R58). -/
def opcodeRowB : List (Option Form) :=
  [op1 .bvs, op1 (.clr1 5), op1 (.bbcA 5), op2 (.bbcDp 5),
   inh .eorIndX, opAbs .eorAbsY, op1 .eorIndDpX, op1 .eorIndDpY,
   opAbs .decAbs, op1 .decDpX, inh (.tcall 11), inh .xmaIndX,
   op1 .xmaDp, op1 .decw, inh .decY, inh .tya]

/-- Row Cx of the opcode map (R58). -/
def opcodeRowC : List (Option Form) :=
  [inh .setg, op1 (.set1 6), op1 (.bbsA 6), op2 (.bbsDp 6),
   op1 .ldaImm, op1 .ldaDp, op1 .ldaDpX, opAbs .ldaAbs,
   inh .txa, op1 .ldyDp, inh (.tcall 12), opMBit .ldc .ldcb,
   op1 .ldxDp, op1 .ldxDpY, inh .xcn, inh .das]

/-- Row Dx of the opcode map (R58). -/
def opcodeRowD : List (Option Form) :=
  [op1 .bcs, op1 (.clr1 6), op1 (.bbcA 6), op2 (.bbcDp 6),
   inh .ldaIndX, opAbs .ldaAbsY, op1 .ldaIndDpX, op1 .ldaIndDpY,
   opAbs .ldyAbs, op1 .ldyDpX, inh (.tcall 13), inh .ldaIndXInc,
   opAbs .ldxAbs, op1 .stya, inh .xay, inh .daa]

/-- Row Ex of the opcode map (R58). -/
def opcodeRowE : List (Option Form) :=
  [inh .ei, op1 (.set1 7), op1 (.bbsA 7), op2 (.bbsDp 7),
   op2 .ldm, op1 .staDp, op1 .staDpX, opAbs .staAbs,
   inh .tax, op1 .styDp, inh (.tcall 14), opMBitPlain .stc,
   op1 .stxDp, op1 .stxDpY, inh .xax, inh .stop]

/-- Row Fx of the opcode map (R58). -/
def opcodeRowF : List (Option Form) :=
  [op1 .beq, op1 (.clr1 7), op1 (.bbcA 7), op2 (.bbcDp 7),
   inh .staIndX, opAbs .staAbsY, op1 .staIndDpX, op1 .staIndDpY,
   opAbs .styAbs, op1 .styDpX, inh (.tcall 15), inh .staIndXInc,
   opAbs .stxAbs, op2 .cbneDp, inh .xyx, inh .nop]

/-- The opcode map (R58): sixteen rows of sixteen op codes. -/
def opcodeMap : List (List (Option Form)) :=
  [opcodeRow0, opcodeRow1, opcodeRow2, opcodeRow3,
   opcodeRow4, opcodeRow5, opcodeRow6, opcodeRow7,
   opcodeRow8, opcodeRow9, opcodeRowA, opcodeRowB,
   opcodeRowC, opcodeRowD, opcodeRowE, opcodeRowF]

/-- The form that an op code selects; `none` for `00h` (R58, R61). -/
def formOf (op : Byte) : Option Form :=
  ((opcodeMap.getD (op.toNat / 16) []).getD (op.toNat % 16) none)

/-- The length in bytes that an op code selects (R50); an unassigned op code is one byte that decodes to
nothing. -/
def instrLength (op : Byte) : Nat :=
  match formOf op with
  | some f => f.length
  | none => 1

/-- Read one instruction from the front of a byte sequence, op code first (R50, R58); what is left follows. -/
def decode : List Byte → Except DecodeError (Instr × List Byte)
  | [] => .error .truncated
  | op :: rest =>
    match formOf op with
    | none => .error (.illegalOpcode op)
    | some (.one i) => .ok (i, rest)
    | some (.two k) =>
      match rest with
      | v :: rest' =>
        match k v with
        | some i => .ok (i, rest')
        | none => .error (.reservedOperandBits op v)
      | [] => .error .truncated
    | some (.three k) =>
      match rest with
      | v :: w :: rest' =>
        match k v w with
        | some i => .ok (i, rest')
        | none => .error (.reservedOperandBits op w)
      | _ => .error .truncated

/-! ## Encoding -/

/-- Formats REL, DP, IMM, UPAGE. -/
def enc1 (op v : Byte) : List Byte := [op, v]

/-- Formats DPREL, IMMDP. -/
def enc2 (op v w : Byte) : List Byte := [op, v, w]

/-- Format ABS: lower address byte first (R53). -/
def encAbs (op : Byte) (addr : Word) : List Byte := [op, loByte addr, hiByte addr]

/-- An op code with a bit number in bits 7 to 5 over its low five bits (R56). -/
def bitOp (low : BitVec 5) (b : BitNo) : Byte := b ++ low

/-- Format ABIT (R56). -/
def encABit (op : Byte) (b : BitNo) : List Byte := [op, b ++ 0#5]

/-- Format MBIT (R57). -/
def encMBit (op : Byte) (rev : Bool) (addr : Word) (b : BitNo) : List Byte :=
  [op, loByte addr, mbitOperand b rev addr]

/-- The bytes of an instruction, op code first (R51, R58). -/
def encode : Instr → List Byte
  | .adcImm imm => enc1 0x04 imm
  | .adcDp dp => enc1 0x05 dp
  | .adcDpX dp => enc1 0x06 dp
  | .adcAbs addr => encAbs 0x07 addr
  | .adcIndX => [0x14]
  | .adcAbsY addr => encAbs 0x15 addr
  | .adcIndDpX dp => enc1 0x16 dp
  | .adcIndDpY dp => enc1 0x17 dp
  | .sbcImm imm => enc1 0x24 imm
  | .sbcDp dp => enc1 0x25 dp
  | .sbcDpX dp => enc1 0x26 dp
  | .sbcAbs addr => encAbs 0x27 addr
  | .sbcIndX => [0x34]
  | .sbcAbsY addr => encAbs 0x35 addr
  | .sbcIndDpX dp => enc1 0x36 dp
  | .sbcIndDpY dp => enc1 0x37 dp
  | .cmpImm imm => enc1 0x44 imm
  | .cmpDp dp => enc1 0x45 dp
  | .cmpDpX dp => enc1 0x46 dp
  | .cmpAbs addr => encAbs 0x47 addr
  | .cmpIndX => [0x54]
  | .cmpAbsY addr => encAbs 0x55 addr
  | .cmpIndDpX dp => enc1 0x56 dp
  | .cmpIndDpY dp => enc1 0x57 dp
  | .orImm imm => enc1 0x64 imm
  | .orDp dp => enc1 0x65 dp
  | .orDpX dp => enc1 0x66 dp
  | .orAbs addr => encAbs 0x67 addr
  | .orIndX => [0x74]
  | .orAbsY addr => encAbs 0x75 addr
  | .orIndDpX dp => enc1 0x76 dp
  | .orIndDpY dp => enc1 0x77 dp
  | .andImm imm => enc1 0x84 imm
  | .andDp dp => enc1 0x85 dp
  | .andDpX dp => enc1 0x86 dp
  | .andAbs addr => encAbs 0x87 addr
  | .andIndX => [0x94]
  | .andAbsY addr => encAbs 0x95 addr
  | .andIndDpX dp => enc1 0x96 dp
  | .andIndDpY dp => enc1 0x97 dp
  | .eorImm imm => enc1 0xA4 imm
  | .eorDp dp => enc1 0xA5 dp
  | .eorDpX dp => enc1 0xA6 dp
  | .eorAbs addr => encAbs 0xA7 addr
  | .eorIndX => [0xB4]
  | .eorAbsY addr => encAbs 0xB5 addr
  | .eorIndDpX dp => enc1 0xB6 dp
  | .eorIndDpY dp => enc1 0xB7 dp
  | .ldaImm imm => enc1 0xC4 imm
  | .ldaDp dp => enc1 0xC5 dp
  | .ldaDpX dp => enc1 0xC6 dp
  | .ldaAbs addr => encAbs 0xC7 addr
  | .ldaIndX => [0xD4]
  | .ldaAbsY addr => encAbs 0xD5 addr
  | .ldaIndDpX dp => enc1 0xD6 dp
  | .ldaIndDpY dp => enc1 0xD7 dp
  | .staDp dp => enc1 0xE5 dp
  | .staDpX dp => enc1 0xE6 dp
  | .staAbs addr => encAbs 0xE7 addr
  | .staIndX => [0xF4]
  | .staAbsY addr => encAbs 0xF5 addr
  | .staIndDpX dp => enc1 0xF6 dp
  | .staIndDpY dp => enc1 0xF7 dp
  | .ldm imm dp => enc2 0xE4 imm dp
  | .ldaIndXInc => [0xDB]
  | .staIndXInc => [0xFB]
  | .aslA => [0x08]
  | .aslDp dp => enc1 0x09 dp
  | .aslAbs addr => encAbs 0x18 addr
  | .aslDpX dp => enc1 0x19 dp
  | .rolA => [0x28]
  | .rolDp dp => enc1 0x29 dp
  | .rolAbs addr => encAbs 0x38 addr
  | .rolDpX dp => enc1 0x39 dp
  | .lsrA => [0x48]
  | .lsrDp dp => enc1 0x49 dp
  | .lsrAbs addr => encAbs 0x58 addr
  | .lsrDpX dp => enc1 0x59 dp
  | .rorA => [0x68]
  | .rorDp dp => enc1 0x69 dp
  | .rorAbs addr => encAbs 0x78 addr
  | .rorDpX dp => enc1 0x79 dp
  | .incA => [0x88]
  | .incDp dp => enc1 0x89 dp
  | .incAbs addr => encAbs 0x98 addr
  | .incDpX dp => enc1 0x99 dp
  | .decA => [0xA8]
  | .decDp dp => enc1 0xA9 dp
  | .decAbs addr => encAbs 0xB8 addr
  | .decDpX dp => enc1 0xB9 dp
  | .incX => [0x8F]
  | .decX => [0xAF]
  | .incY => [0x9E]
  | .decY => [0xBE]
  | .ldyImm imm => enc1 0x3E imm
  | .ldyDp dp => enc1 0xC9 dp
  | .ldyAbs addr => encAbs 0xD8 addr
  | .ldyDpX dp => enc1 0xD9 dp
  | .styDp dp => enc1 0xE9 dp
  | .styAbs addr => encAbs 0xF8 addr
  | .styDpX dp => enc1 0xF9 dp
  | .ldxImm imm => enc1 0x1E imm
  | .ldxDp dp => enc1 0xCC dp
  | .ldxDpY dp => enc1 0xCD dp
  | .ldxAbs addr => encAbs 0xDC addr
  | .stxDp dp => enc1 0xEC dp
  | .stxDpY dp => enc1 0xED dp
  | .stxAbs addr => encAbs 0xFC addr
  | .cmpxImm imm => enc1 0x5E imm
  | .cmpxDp dp => enc1 0x6C dp
  | .cmpxAbs addr => encAbs 0x7C addr
  | .cmpyImm imm => enc1 0x7E imm
  | .cmpyDp dp => enc1 0x8C dp
  | .cmpyAbs addr => encAbs 0x9C addr
  | .bitDp dp => enc1 0x0C dp
  | .bitAbs addr => encAbs 0x1C addr
  | .com dp => enc1 0x2C dp
  | .tst dp => enc1 0x4C dp
  | .tset1 addr => encAbs 0x3C addr
  | .tclr1 addr => encAbs 0x5C addr
  | .dbneDp dp rel => enc2 0xAC dp rel
  | .dbneY rel => enc1 0x7B rel
  | .cbneDp dp rel => enc2 0xFD dp rel
  | .cbneDpX dp rel => enc2 0x8D dp rel
  | .xmaDp dp => enc1 0xBC dp
  | .xmaDpX dp => enc1 0xAD dp
  | .xmaIndX => [0xBB]
  | .popA => [0x0D]
  | .popX => [0x2D]
  | .popY => [0x4D]
  | .popPsw => [0x6D]
  | .pushA => [0x0E]
  | .pushX => [0x2E]
  | .pushY => [0x4E]
  | .pushPsw => [0x6E]
  | .txsp => [0x8E]
  | .tspx => [0xAE]
  | .xcn => [0xCE]
  | .xax => [0xEE]
  | .xay => [0xDE]
  | .xyx => [0xFE]
  | .brk => [0x0F]
  | .ret => [0x6F]
  | .das => [0xCF]
  | .stop => [0xEF]
  | .reti => [0x7F]
  | .tay => [0x9F]
  | .tya => [0xBF]
  | .daa => [0xDF]
  | .nop => [0xFF]
  | .clrc => [0x20]
  | .clrg => [0x40]
  | .di => [0x60]
  | .clrv => [0x80]
  | .setc => [0xA0]
  | .setg => [0xC0]
  | .ei => [0xE0]
  | .txa => [0xC8]
  | .tax => [0xE8]
  | .mul => [0x5B]
  | .div => [0x9B]
  | .bra rel => enc1 0x2F rel
  | .bpl rel => enc1 0x10 rel
  | .bvc rel => enc1 0x30 rel
  | .bcc rel => enc1 0x50 rel
  | .bne rel => enc1 0x70 rel
  | .bmi rel => enc1 0x90 rel
  | .bvs rel => enc1 0xB0 rel
  | .bcs rel => enc1 0xD0 rel
  | .beq rel => enc1 0xF0 rel
  | .pcall u => enc1 0x4F u
  | .jmpAbs addr => encAbs 0x1B addr
  | .jmpIndAbs addr => encAbs 0x1F addr
  | .jmpIndDp dp => enc1 0x3F dp
  | .callAbs addr => encAbs 0x3B addr
  | .callIndDp dp => enc1 0x5F dp
  | .addw dp => enc1 0x1D dp
  | .subw dp => enc1 0x3D dp
  | .cmpw dp => enc1 0x5D dp
  | .ldya dp => enc1 0x7D dp
  | .incw dp => enc1 0x9D dp
  | .decw dp => enc1 0xBD dp
  | .stya dp => enc1 0xDD dp
  | .set1 b dp => enc1 (bitOp 0x01 b) dp
  | .clr1 b dp => enc1 (bitOp 0x11 b) dp
  | .bbsA b rel => enc1 (bitOp 0x02 b) rel
  | .bbsDp b dp rel => enc2 (bitOp 0x03 b) dp rel
  | .bbcA b rel => enc1 (bitOp 0x12 b) rel
  | .bbcDp b dp rel => enc2 (bitOp 0x13 b) dp rel
  | .tcall n => [n ++ 0xA#4]
  | .seta1 b => encABit 0x0B b
  | .clra1 b => encABit 0x2B b
  | .not1 addr b => encMBit 0x4B false addr b
  | .or1 addr b => encMBit 0x6B false addr b
  | .or1b addr b => encMBit 0x6B true addr b
  | .and1 addr b => encMBit 0x8B false addr b
  | .and1b addr b => encMBit 0x8B true addr b
  | .eor1 addr b => encMBit 0xAB false addr b
  | .eor1b addr b => encMBit 0xAB true addr b
  | .ldc addr b => encMBit 0xCB false addr b
  | .ldcb addr b => encMBit 0xCB true addr b
  | .stc addr b => encMBit 0xEB false addr b

/-! ## The bits of an opcode-table row as bytes -/

/-- `n` bytes of `w`, the first the most significant: the numbering of the `fixed` entries of
spec/opcode_table.json, where the op code of a row stands in its highest byte. -/
def bytesHighFirst : Nat → Nat → List Byte
  | 0, _ => []
  | n + 1, w => BitVec.ofNat 8 (w / 256 ^ n) :: bytesHighFirst n w

/-- `n` bytes of `w`, the first the least significant. -/
def bytesLowFirst : Nat → Nat → List Byte
  | 0, _ => []
  | n + 1, w => BitVec.ofNat 8 w :: bytesLowFirst n (w / 256)

/-- The bytes are exactly one instruction. -/
def isOneInstr (bs : List Byte) : Bool :=
  match decode bs with
  | .ok (_, rest) => rest.isEmpty
  | .error _ => false

/-- The bytes, op code first, of a table row's bits. DEDUCED (log 4): the table numbers a row with its first
byte highest; bits that are no instruction of that length so, but are one with the first byte lowest, are
read that way. -/
def tableBytes (nbits w : Nat) : List Byte :=
  let high := bytesHighFirst (nbits / 8) w
  let low := bytesLowFirst (nbits / 8) w
  if isOneInstr high then high
  else if isOneInstr low then low
  else high

/-- The instruction that the decoder reads from a row's bits (log 4); the bytes above `nbits` are zero. -/
def decodeTableWord (nbits w : Nat) : Option Instr :=
  match decode (tableBytes nbits w ++ [0, 0, 0]) with
  | .ok (i, _) => some i
  | .error _ => none

end Sys2Proof
end

