-- ==== Sys2Proof/Machine/Fetch.lean ====
section
/-! DEFINITION. Fetching one instruction: its bytes from PC, PC+1, PC+2, op code first, as many as the op code
asks for and no more (R13, R34, R50), from the same memory as data (R44). -/

namespace Sys2Proof.Machine

/-- Fetch and decode the instruction at PC; `k` takes it and its length. PC itself is advanced by the step. -/
def fetchInstr (s : State) (k : Instr → Nat → Outcome) : Outcome :=
  withByte s s.pc fun op =>
    match formOf op with
    | none => .fault (.illegalOpcode op)
    | some (.one i) => k i 1
    | some (.two f) =>
      withByte s (s.pc + 1#16) fun v =>
        match f v with
        | some i => k i 2
        | none => .fault (.reservedOperandBits op v)
    | some (.three f) =>
      withByte s (s.pc + 1#16) fun v => withByte s (s.pc + 2#16) fun w =>
        match f v w with
        | some i => k i 3
        | none => .fault (.reservedOperandBits op w)

/-- Bytes stored from an address upwards, the first at the lowest, wrapping at `FFFFh` (R34, D1). -/
def State.placeBytes (s : State) (a : Word) : List Byte → State
  | [] => s
  | v :: rest => (s.storeByte a v).placeBytes (a + 1#16) rest

end Sys2Proof.Machine
end

