-- ==== Sys2Proof/Machine/Interrupts.lean ====
section
/-! DEFINITION. Hardware interrupts (60_exceptions.md R232 to R238): the enables and requests of the sources, which
source is accepted at an instruction boundary, and the acceptance. -/

namespace Sys2Proof.Machine

/-! ## Device state of a source (R232) -/

/-- The value of a bit of device state. -/
def State.deviceBit (s : State) : DeviceBit → Bool
  | .hidden v => v
  | .register a b => bitOf (s.byteAt a) b

/-- `enabled()` (R232). -/
def State.enabled (s : State) (src : IrqSource) : Bool := s.deviceBit src.enable

/-- `requested()` (R232): the source is in IRQ_PENDING (R233). -/
def State.requested (s : State) (src : IrqSource) : Bool := s.deviceBit src.request

/-- A bit that the device holds itself takes a value; a bit of a register does not lie here. -/
def DeviceBit.setHidden (d : DeviceBit) (v : Bool) : DeviceBit :=
  match d with
  | .hidden _ => .hidden v
  | .register a b => .register a b

/-- A source with its request, where the device holds it itself, latched or withdrawn. -/
def IrqSource.setRequest (src : IrqSource) (v : Bool) : IrqSource := { src with request := src.request.setHidden v }

/-- The request of a source is latched or withdrawn, in the device or in the device register that holds it (R233). -/
def State.setRequest (s : State) (src : IrqSource) (v : Bool) : State :=
  match src.request with
  | .hidden _ => { s with irqTable := s.irqTable.map fun t => if t.id = src.id then t.setRequest v else t }
  | .register a b => s.storeByte a (if v then withBitSet (s.byteAt a) b else withBitClear (s.byteAt a) b)

/-- `clear()` (R232, R235). -/
def State.clearRequest (s : State) (src : IrqSource) : State := s.setRequest src false

/-- IRQ_PENDING (R233): the sources whose request is latched. -/
def State.irqPending (s : State) : List Nat := (s.irqTable.filter s.requested).map IrqSource.id

/-! ## Acceptance (R234, R237) -/

/-- `requested()` and `enabled()` (R234). -/
def State.eligible (s : State) (src : IrqSource) : Bool := s.requested src && s.enabled src

/-- The source of highest priority among those a test admits (R234, R237); of equal priorities, which R232 excludes,
the first. -/
def highestPriority (admits : IrqSource → Bool) : List IrqSource → Option IrqSource
  | [] => none
  | src :: rest =>
    match highestPriority admits rest with
    | none => if admits src then some src else none
    | some t => if admits src && decide (t.priority ≤ src.priority) then some src else some t

/-- The source that may be accepted now: none while I = 0 (R234). -/
def State.requestingSource (s : State) : Option IrqSource :=
  if s.flag .i then highestPriority s.eligible s.irqTable else none

/-- The source accepted at this boundary. Right after EI, or a POP PSW or RETI that leaves I = 1, the boundary
may or may not be an acceptance point: a free choice (R234, R261, D29; log 15). -/
def pollIrq (s : State) : Option IrqSource × State :=
  match s.requestingSource with
  | none => (none, s)
  | some src =>
    if s.iShadow then (if s.drawBit.1 then some src else none, s.drawBit.2)
    else (some src, s)

/-- Accept a source: the entry sequence runs, and its request is cleared before the vector is read (R235). -/
def acceptIrq (src : IrqSource) (s : State) : Outcome :=
  enterHandler src.vector (fun t => t.clearRequest src) { s with iShadow := false }

end Sys2Proof.Machine
end

