-- ==== Sys2Proof/Machine/Reset.lean ====
section
/-! DEFINITION. Reset as an event of a running machine (70_reset_and_hazards.md R250, R251). -/

namespace Sys2Proof.Machine

/-- The requests of these sources withdrawn. -/
def clearRequests (s : State) : List IrqSource → State
  | [] => s
  | src :: rest => clearRequests (s.clearRequest src) rest

/-- Every request withdrawn: IRQ_PENDING is empty after reset (R250). -/
def State.dropRequests (s : State) : State := clearRequests s s.irqTable

/-- Reset: PC is loaded from the reset vector, low byte first, PSW becomes `00h`, STOPPED becomes 0 and no request
is pending; nothing is saved (R250, R251). Memory keeps its contents and A, X, Y and SP take the values of
`State.reset`, both left open by R250 (log 1, 17); the enables are kept (log 29). -/
def takeReset (s : State) : Outcome :=
  withPair s resetVector fun target =>
    .next { State.reset with
      pc := target, mem := s.dropRequests.mem, memMap := s.memMap, irqTable := s.dropRequests.irqTable, draws := s.draws }

end Sys2Proof.Machine
end

