-- ==== Sys2Proof/Machine/Step.lean ====
section
/-! DEFINITION. One step of the core (R248): reset first, then the interrupt of highest priority, else one
instruction (R234, R237). -/

namespace Sys2Proof.Machine

/-- Fetch, decode and execute one instruction: PC holds the address of the next one when the operation is
carried out (R13). -/
def runInstr (s : State) : Outcome :=
  fetchInstr s fun i len => exec i { s with pc := s.pc + BitVec.ofNat 16 len, iShadow := false }

/-- One step. While STOPPED is 1 the core executes nothing and accepts no interrupt: the state stays as it is
until reset (R218, R247, U14 of 93_implementation_defined.md; log 16). -/
def step (s : State) : Host.Outcome State Fault Refusal :=
  if s.resetRequest then takeReset s
  else if s.stopped then .next s
  else
    match pollIrq s with
    | (some src, s') => acceptIrq src s'
    | (none, s') => runInstr s'

/-- The state whose next step fetches and runs the instruction with these table bits: its bytes stand at PC
(bytes above `nbits` zero), the core is neither stopped nor in reset, and no request is pending (log 3, 4). -/
def State.withFetchWord (s : State) (nbits w : Nat) : State :=
  { s.dropRequests.placeBytes s.pc ((tableBytes nbits w ++ [0, 0, 0]).take 3) with
    stopped := false, resetRequest := false }

end Sys2Proof.Machine
end

