-- ==== Sys2Proof/Machine/Environment.lean ====
section
/-! DEFINITION. The environment (R233, R246, R248): what it may do between two steps of the core. Its moves are not
steps of the core (log 27). -/

namespace Sys2Proof.Machine

/-- The moves of the environment (R248). -/
inductive EnvMove
  /-- assert reset (R250, R251) -/
  | reset
  /-- a device sets the request of its source (R233) -/
  | request (id : Nat)
  /-- a device changes an enable that it holds itself (R232) -/
  | enable (id : Nat) (on : Bool)
  /-- a device register changes (R248) -/
  | device (addr : Word) (v : Byte)
  deriving DecidableEq, Repr

/-- The bits of the byte at `a` that a bit of device state occupies. -/
def DeviceBit.maskAt (d : DeviceBit) (a : Word) : Byte :=
  match d with
  | .hidden _ => 0#8
  | .register b k => if b = a then bitMask k else 0#8

/-- The request bits of the sources at `a`. -/
def requestMask (table : List IrqSource) (a : Word) : Byte :=
  match table with
  | [] => 0#8
  | src :: rest => src.request.maskAt a ||| requestMask rest a

/-- The environment asserts reset (R248, R251). -/
def State.assertReset (s : State) : State := { s with resetRequest := true }

/-- The device of a source raises its request (R233). -/
def State.raiseRequest (s : State) (id : Nat) : State :=
  match s.irqTable.find? fun src => src.id == id with
  | some src => s.setRequest src true
  | none => s

/-- A device changes the enable that it holds itself (R232, R248). -/
def State.changeEnable (s : State) (id : Nat) (on : Bool) : State :=
  { s with irqTable := s.irqTable.map fun t => if t.id = id then { t with enable := t.enable.setHidden on } else t }

/-- A device register changes (R248). A latched request stays: only acceptance and software withdraw it (R233). -/
def State.changeDevice (s : State) (a : Word) (v : Byte) : State :=
  match s.kindAt a with
  | .device => s.storeByte a (v ||| (s.byteAt a &&& requestMask s.irqTable a))
  | .ram | .rom | .hole => s

/-- One move of the environment. -/
def State.environment (s : State) : EnvMove → State
  | .reset => s.assertReset
  | .request id => s.raiseRequest id
  | .enable id on => s.changeEnable id on
  | .device a v => s.changeDevice a v

end Sys2Proof.Machine
end

