-- ==== Sys2Proof/Safety.lean ====
section
/-! DEFINITION. What counts as a safe run, and the words the statements use: which cells may be accessed, what
an instruction leaves unchanged, the operand forms of a mnemonic, and the invariants of the machine. -/

namespace Sys2Proof.Machine

/-! ## Access (R33) -/

/-- MEMMAP allows a read: RAM, ROM or a device register. -/
def Readable (s : State) (a : Word) : Prop := s.kindAt a = .ram ∨ s.kindAt a = .rom ∨ s.kindAt a = .device

/-- MEMMAP allows a write: RAM or a device register. -/
def Writable (s : State) (a : Word) : Prop := s.kindAt a = .ram ∨ s.kindAt a = .device

/-- MEMMAP allows a read of each of these cells. -/
def CanRead (s : State) (cells : List Word) : Prop := ∀ a ∈ cells, Readable s a

/-- MEMMAP allows a write of each of these cells. -/
def CanWrite (s : State) (cells : List Word) : Prop := ∀ a ∈ cells, Writable s a

/-- MEMMAP has no ROM and no holes; so has the default, where every cell is RAM (R7, R33, D16). -/
def AllWritable (s : State) : Prop := ∀ a, Writable s a

/-! ## Frames -/

/-- The 8-bit registers other than PSW (R17). -/
inductive Reg
  | a | x | y | sp
  deriving DecidableEq, Repr

/-- The value of a register. -/
def State.reg (s : State) : Reg → Byte
  | .a => s.a
  | .x => s.x
  | .y => s.y
  | .sp => s.sp

/-- Nothing but these registers, these flags and these cells of memory differs; PC and the model's own
`iShadow` and `draws` are not spoken of. -/
def OnlyChanges (s t : State) (regs : List Reg) (flags : List Flag) (cells : List Word) : Prop :=
  (∀ r, r ∉ regs → t.reg r = s.reg r) ∧
  (∀ f, f ∉ flags → t.flag f = s.flag f) ∧
  (∀ a, a ∉ cells → t.byteAt a = s.byteAt a) ∧
  t.stopped = s.stopped ∧ t.memMap = s.memMap ∧ t.irqTable = s.irqTable ∧ t.resetRequest = s.resetRequest

/-- N and Z are those of a byte (`setNZ8`, R9). -/
def NZOf8 (t : State) (v : Byte) : Prop := t.flag .n = v.getLsbD 7 ∧ t.flag .z = decide (v = 0#8)

/-- N and Z are those of a word (`setNZ16`, R9). -/
def NZOf16 (t : State) (w : Word) : Prop := t.flag .n = w.getLsbD 15 ∧ t.flag .z = decide (w = 0#16)

/-! ## Cells that an instruction accesses -/

/-- The two cells of a direct-page pair (R36, R92). -/
def State.dpCells (s : State) (off : Byte) : List Word := [s.dpAddr off, s.dpAddrHi off]

/-- The two cells of a pair named by an absolute address (R36). -/
def pairCells (a : Word) : List Word := [a, a + 1#16]

/-- The two cells a call writes, the high byte's first (R16, R201). -/
def State.callCells (s : State) : List Word := [stackCell s.sp, stackCell (s.sp - 1#8)]

/-- The three cells an exception entry writes (R235). -/
def State.entryCells (s : State) : List Word :=
  [stackCell s.sp, stackCell (s.sp - 1#8), stackCell (s.sp - 2#8)]

/-! ## The operand forms of a mnemonic -/

/-- The eight forms of ADC, SBC, CMP, OR, AND, EOR and LDA (41_arithmetic_logic.md, table). -/
def eightForms (imm dp dpX : Byte → Instr) (abs : Word → Instr) (indX : Instr) (absY : Word → Instr)
    (indDpX indDpY : Byte → Instr) : Src → Option Instr
  | .imm v => some (imm v)
  | .mem (.dp d) => some (dp d)
  | .mem (.dpX d) => some (dpX d)
  | .mem (.dpY _) => none
  | .mem (.abs w) => some (abs w)
  | .mem .indX => some indX
  | .mem (.absY w) => some (absY w)
  | .mem (.indDpX d) => some (indDpX d)
  | .mem (.indDpY d) => some (indDpY d)

/-- The forms of ADC (R100). -/
def adcForm : Src → Option Instr :=
  eightForms .adcImm .adcDp .adcDpX .adcAbs .adcIndX .adcAbsY .adcIndDpX .adcIndDpY

/-- The forms of SBC (R118). -/
def sbcForm : Src → Option Instr :=
  eightForms .sbcImm .sbcDp .sbcDpX .sbcAbs .sbcIndX .sbcAbsY .sbcIndDpX .sbcIndDpY

/-- The forms of AND, OR and EOR with what each computes (R101, R111, R115). -/
inductive LogicOp
  | and | or | eor
  deriving DecidableEq, Repr

/-- The forms of a logic operation. -/
def logicForm : LogicOp → Src → Option Instr
  | .and => eightForms .andImm .andDp .andDpX .andAbs .andIndX .andAbsY .andIndDpX .andIndDpY
  | .or => eightForms .orImm .orDp .orDpX .orAbs .orIndX .orAbsY .orIndDpX .orIndDpY
  | .eor => eightForms .eorImm .eorDp .eorDpX .eorAbs .eorIndX .eorAbsY .eorIndDpX .eorIndDpY

/-- Bit `k` of the result from bit `k` of A and of the operand. -/
def logicBit : LogicOp → Bool → Bool → Bool
  | .and, p, q => p && q
  | .or, p, q => p || q
  | .eor, p, q => p ^^ q

/-- The forms of the compares: the register compared and the operand (R103, R104, R105). -/
def compareForm : Reg → Src → Option Instr
  | .a, o => eightForms .cmpImm .cmpDp .cmpDpX .cmpAbs .cmpIndX .cmpAbsY .cmpIndDpX .cmpIndDpY o
  | .x, .imm v => some (.cmpxImm v)
  | .x, .mem (.dp d) => some (.cmpxDp d)
  | .x, .mem (.abs w) => some (.cmpxAbs w)
  | .y, .imm v => some (.cmpyImm v)
  | .y, .mem (.dp d) => some (.cmpyDp d)
  | .y, .mem (.abs w) => some (.cmpyAbs w)
  | _, _ => none

/-- The forms of the loads but `LDA` with auto-increment (R130, R132, R133). -/
def loadForm : Reg → Src → Option Instr
  | .a, o => eightForms .ldaImm .ldaDp .ldaDpX .ldaAbs .ldaIndX .ldaAbsY .ldaIndDpX .ldaIndDpY o
  | .x, .imm v => some (.ldxImm v)
  | .x, .mem (.dp d) => some (.ldxDp d)
  | .x, .mem (.dpY d) => some (.ldxDpY d)
  | .x, .mem (.abs w) => some (.ldxAbs w)
  | .y, .imm v => some (.ldyImm v)
  | .y, .mem (.dp d) => some (.ldyDp d)
  | .y, .mem (.dpX d) => some (.ldyDpX d)
  | .y, .mem (.abs w) => some (.ldyAbs w)
  | _, _ => none

/-- The forms of the stores but `STA` with auto-increment (R134, R135, R136). -/
def storeForm : Reg → Mode → Option Instr
  | .a, .dp d => some (.staDp d)
  | .a, .dpX d => some (.staDpX d)
  | .a, .abs w => some (.staAbs w)
  | .a, .indX => some .staIndX
  | .a, .absY w => some (.staAbsY w)
  | .a, .indDpX d => some (.staIndDpX d)
  | .a, .indDpY d => some (.staIndDpY d)
  | .x, .dp d => some (.stxDp d)
  | .x, .dpY d => some (.stxDpY d)
  | .x, .abs w => some (.stxAbs w)
  | .y, .dp d => some (.styDp d)
  | .y, .dpX d => some (.styDpX d)
  | .y, .abs w => some (.styAbs w)
  | _, _ => none

/-- A shift or rotation of A (R102, R113, R116, R117). -/
def shiftFormA : ShiftOp → Instr
  | .asl => .aslA
  | .lsr => .lsrA
  | .rol => .rolA
  | .ror => .rorA

/-- The memory forms of the shifts and rotations. -/
def shiftFormMem : ShiftOp → Mode → Option Instr
  | .asl, .dp d => some (.aslDp d)
  | .asl, .abs w => some (.aslAbs w)
  | .asl, .dpX d => some (.aslDpX d)
  | .lsr, .dp d => some (.lsrDp d)
  | .lsr, .abs w => some (.lsrAbs w)
  | .lsr, .dpX d => some (.lsrDpX d)
  | .rol, .dp d => some (.rolDp d)
  | .rol, .abs w => some (.rolAbs w)
  | .rol, .dpX d => some (.rolDpX d)
  | .ror, .dp d => some (.rorDp d)
  | .ror, .abs w => some (.rorAbs w)
  | .ror, .dpX d => some (.rorDpX d)
  | _, _ => none

/-- The memory forms of INC (`true`) and DEC (`false`) (R109, R112). -/
def stepFormMem : Bool → Mode → Option Instr
  | true, .dp d => some (.incDp d)
  | true, .abs w => some (.incAbs w)
  | true, .dpX d => some (.incDpX d)
  | false, .dp d => some (.decDp d)
  | false, .abs w => some (.decAbs w)
  | false, .dpX d => some (.decDpX d)
  | _, _ => none

/-- The forms of XMA (R145). -/
def xmaForm : Mode → Option Instr
  | .dp d => some (.xmaDp d)
  | .dpX d => some (.xmaDpX d)
  | .indX => some .xmaIndX
  | _ => none

/-- A conditional branch with a relative operand only: the flag it tests and the value on which it branches
(R192 to R197, R199, R200). -/
def branchForm : Flag → Bool → Byte → Option Instr
  | .c, false, rel => some (.bcc rel)
  | .c, true, rel => some (.bcs rel)
  | .z, false, rel => some (.bne rel)
  | .z, true, rel => some (.beq rel)
  | .n, false, rel => some (.bpl rel)
  | .n, true, rel => some (.bmi rel)
  | .v, false, rel => some (.bvc rel)
  | .v, true, rel => some (.bvs rel)
  | _, _, _ => none

/-- The forms of CBNE (R202). -/
def cbneForm : Mode → Byte → Option Instr
  | .dp d, rel => some (.cbneDp d rel)
  | .dpX d, rel => some (.cbneDpX d rel)
  | _, _ => none

/-- The register that PUSH and POP name: A, X, Y or, with `none`, PSW (R214, R215). -/
def pushForm : Option Reg → Option Instr
  | some .a => some .pushA
  | some .x => some .pushX
  | some .y => some .pushY
  | some .sp => none
  | none => some .pushPsw

/-- The program counter that a displacement leads to: `(PC + sext_8(rel)) mod 65536` on exact integers (R85). -/
def branchTarget (pc : Word) (rel : Byte) : Word := BitVec.ofInt 16 ((pc.toNat : Int) + rel.toInt)

/-- `next` answers, and with a state of which `p` holds. -/
def NextWith (o : Outcome) (p : State → Prop) : Prop := ∃ t, o = .next t ∧ p t

/-! ## Encodings of the operand forms (R51 to R54, R59) -/

/-- The operand bytes of a memory operand, in the order of its format line (R51, R53, R54). -/
def Mode.bytes : Mode → List Byte
  | .dp off | .dpX off | .dpY off | .indDpX off | .indDpY off => [off]
  | .abs addr | .absY addr => [loByte addr, hiByte addr]
  | .indX => []

/-- The operand bytes of an operand (R52). -/
def Src.bytes : Src → List Byte
  | .imm v => [v]
  | .mem m => m.bytes

/-- Op code of the eight-mode group: the row in the upper three bits, the mode in the lower five (R59). -/
def groupOpcode (row : BitVec 3) (o : Src) : Byte :=
  row ++ match o with
    | .imm _ => 0x04#5
    | .mem (.dp _) => 0x05#5
    | .mem (.dpX _) => 0x06#5
    | .mem (.abs _) => 0x07#5
    | .mem .indX => 0x14#5
    | .mem (.absY _) => 0x15#5
    | .mem (.indDpX _) => 0x16#5
    | .mem (.indDpY _) => 0x17#5
    | .mem (.dpY _) => 0x00#5

/-- Op code of the shift and step group: the row in the upper three bits, the operand in the lower five; `none`
is A (R59). -/
def stepOpcode (row : BitVec 3) (m : Option Mode) : Byte :=
  row ++ match m with
    | none => 0x08#5
    | some (.dp _) => 0x09#5
    | some (.abs _) => 0x18#5
    | some (.dpX _) => 0x19#5
    | some _ => 0x00#5

/-- The row of a logic operation in the eight-mode group (R101, R111, R115). -/
def logicRow : LogicOp → BitVec 3
  | .or => 3
  | .and => 4
  | .eor => 5

/-- The row of a shift or rotation (R102, R113, R116, R117). -/
def shiftRow : ShiftOp → BitVec 3
  | .asl => 0
  | .rol => 1
  | .lsr => 2
  | .ror => 3

/-- Op codes of the compares (R103, R104, R105). -/
def compareOpcode : Reg → Src → Byte
  | .x, .imm _ => 0x5E
  | .x, .mem (.dp _) => 0x6C
  | .x, .mem (.abs _) => 0x7C
  | .y, .imm _ => 0x7E
  | .y, .mem (.dp _) => 0x8C
  | .y, .mem (.abs _) => 0x9C
  | _, o => groupOpcode 2 o

/-- Op codes of the loads (R130, R132, R133). -/
def loadOpcode : Reg → Src → Byte
  | .x, .imm _ => 0x1E
  | .x, .mem (.dp _) => 0xCC
  | .x, .mem (.dpY _) => 0xCD
  | .x, .mem (.abs _) => 0xDC
  | .y, .imm _ => 0x3E
  | .y, .mem (.dp _) => 0xC9
  | .y, .mem (.dpX _) => 0xD9
  | .y, .mem (.abs _) => 0xD8
  | _, o => groupOpcode 6 o

/-- Op codes of the stores (R134, R135, R136). -/
def storeOpcode : Reg → Mode → Byte
  | .x, .dp _ => 0xEC
  | .x, .dpY _ => 0xED
  | .x, .abs _ => 0xFC
  | .y, .dp _ => 0xE9
  | .y, .dpX _ => 0xF9
  | .y, .abs _ => 0xF8
  | _, m => groupOpcode 7 (.mem m)

/-- Op codes of the conditional branches: column `10h`, rows BPL BVC BCC BNE BMI BVS BCS BEQ (R59). -/
def branchOpcode : Flag → Bool → Byte
  | .n, taken => if taken then 0x90 else 0x10
  | .v, taken => if taken then 0xB0 else 0x30
  | .c, taken => if taken then 0xD0 else 0x50
  | .z, taken => if taken then 0xF0 else 0x70
  | _, _ => 0x00

/-! ## What an instruction may write -/

/-- All eight flags of PSW (R14). -/
def allFlags : List Flag := [.n, .v, .g, .b, .h, .i, .z, .c]

/-- The flags an instruction writes (R15). CBNE and DBNE, which R15 calls open, are listed with the flags that
D12 draws; INC A with the C that D11 draws. -/
def flagsWritten : Instr → List Flag
  | .adcImm _ | .adcDp _ | .adcDpX _ | .adcAbs _ | .adcIndX | .adcAbsY _ | .adcIndDpX _ | .adcIndDpY _
  | .sbcImm _ | .sbcDp _ | .sbcDpX _ | .sbcAbs _ | .sbcIndX | .sbcAbsY _ | .sbcIndDpX _ | .sbcIndDpY _
  | .addw _ | .subw _ => [.n, .v, .h, .z, .c]
  | .div => [.n, .v, .h, .z]
  | .cmpImm _ | .cmpDp _ | .cmpDpX _ | .cmpAbs _ | .cmpIndX | .cmpAbsY _ | .cmpIndDpX _ | .cmpIndDpY _
  | .cmpxImm _ | .cmpxDp _ | .cmpxAbs _ | .cmpyImm _ | .cmpyDp _ | .cmpyAbs _ | .cmpw _
  | .aslA | .aslDp _ | .aslAbs _ | .aslDpX _ | .lsrA | .lsrDp _ | .lsrAbs _ | .lsrDpX _
  | .rolA | .rolDp _ | .rolAbs _ | .rolDpX _ | .rorA | .rorDp _ | .rorAbs _ | .rorDpX _
  | .daa | .das | .incA | .cbneDp _ _ | .cbneDpX _ _ => [.n, .z, .c]
  | .andImm _ | .andDp _ | .andDpX _ | .andAbs _ | .andIndX | .andAbsY _ | .andIndDpX _ | .andIndDpY _
  | .orImm _ | .orDp _ | .orDpX _ | .orAbs _ | .orIndX | .orAbsY _ | .orIndDpX _ | .orIndDpY _
  | .eorImm _ | .eorDp _ | .eorDpX _ | .eorAbs _ | .eorIndX | .eorAbsY _ | .eorIndDpX _ | .eorIndDpY _
  | .com _ | .tst _ | .xcn | .incDp _ | .incAbs _ | .incDpX _ | .incX | .incY
  | .decA | .decDp _ | .decAbs _ | .decDpX _ | .decX | .decY | .mul
  | .ldaImm _ | .ldaDp _ | .ldaDpX _ | .ldaAbs _ | .ldaIndX | .ldaAbsY _ | .ldaIndDpX _ | .ldaIndDpY _
  | .ldaIndXInc | .ldxImm _ | .ldxDp _ | .ldxDpY _ | .ldxAbs _ | .ldyImm _ | .ldyDp _ | .ldyDpX _ | .ldyAbs _
  | .ldya _ | .tax | .tay | .txa | .tya | .tspx | .txsp | .xmaDp _ | .xmaDpX _ | .xmaIndX
  | .incw _ | .decw _ | .tset1 _ | .tclr1 _ | .dbneDp _ _ | .dbneY _ => [.n, .z]
  | .bitDp _ | .bitAbs _ => [.n, .v, .z]
  | .and1 _ _ | .and1b _ _ | .or1 _ _ | .or1b _ _ | .eor1 _ _ | .eor1b _ _ | .ldc _ _ | .ldcb _ _
  | .clrc | .setc => [.c]
  | .clrg | .setg => [.g]
  | .clrv => [.v, .h]
  | .di | .ei => [.i]
  | .brk => [.b, .i]
  | .popPsw | .reti => allFlags
  | _ => []

/-- The 8-bit registers an instruction writes, PSW apart (R10, R11, R16). -/
def regsWritten : Instr → List Reg
  | .adcImm _ | .adcDp _ | .adcDpX _ | .adcAbs _ | .adcIndX | .adcAbsY _ | .adcIndDpX _ | .adcIndDpY _
  | .sbcImm _ | .sbcDp _ | .sbcDpX _ | .sbcAbs _ | .sbcIndX | .sbcAbsY _ | .sbcIndDpX _ | .sbcIndDpY _
  | .andImm _ | .andDp _ | .andDpX _ | .andAbs _ | .andIndX | .andAbsY _ | .andIndDpX _ | .andIndDpY _
  | .orImm _ | .orDp _ | .orDpX _ | .orAbs _ | .orIndX | .orAbsY _ | .orIndDpX _ | .orIndDpY _
  | .eorImm _ | .eorDp _ | .eorDpX _ | .eorAbs _ | .eorIndX | .eorAbsY _ | .eorIndDpX _ | .eorIndDpY _
  | .ldaImm _ | .ldaDp _ | .ldaDpX _ | .ldaAbs _ | .ldaIndX | .ldaAbsY _ | .ldaIndDpX _ | .ldaIndDpY _
  | .aslA | .lsrA | .rolA | .rorA | .incA | .decA | .daa | .das | .xcn | .txa | .tya
  | .xmaDp _ | .xmaDpX _ | .xmaIndX | .seta1 _ | .clra1 _ => [.a]
  | .ldxImm _ | .ldxDp _ | .ldxDpY _ | .ldxAbs _ | .incX | .decX | .tax | .tspx | .staIndXInc => [.x]
  | .ldyImm _ | .ldyDp _ | .ldyDpX _ | .ldyAbs _ | .incY | .decY | .tay | .dbneY _ => [.y]
  | .ldaIndXInc | .xax => [.a, .x]
  | .xay | .mul | .div | .addw _ | .subw _ | .ldya _ => [.a, .y]
  | .xyx => [.x, .y]
  | .popA => [.a, .sp]
  | .popX => [.x, .sp]
  | .popY => [.y, .sp]
  | .txsp | .popPsw | .pushA | .pushX | .pushY | .pushPsw | .callAbs _ | .callIndDp _ | .pcall _ | .tcall _
  | .brk | .ret | .reti => [.sp]
  | _ => []

/-- The instructions that may send PC elsewhere than to the next instruction (R13). -/
def isControlTransfer : Instr → Bool
  | .bra _ | .bpl _ | .bvc _ | .bcc _ | .bne _ | .bmi _ | .bvs _ | .bcs _ | .beq _
  | .bbsA _ _ | .bbsDp _ _ _ | .bbcA _ _ | .bbcDp _ _ _ | .cbneDp _ _ | .cbneDpX _ _ | .dbneDp _ _ | .dbneY _
  | .jmpAbs _ | .jmpIndAbs _ | .jmpIndDp _ | .callAbs _ | .callIndDp _ | .pcall _ | .tcall _
  | .brk | .ret | .reti => true
  | _ => false

/-- The instructions that write memory (R37, R16). -/
def writesMemory : Instr → Bool
  | .staDp _ | .staDpX _ | .staAbs _ | .staIndX | .staAbsY _ | .staIndDpX _ | .staIndDpY _ | .staIndXInc
  | .stxDp _ | .stxDpY _ | .stxAbs _ | .styDp _ | .styDpX _ | .styAbs _ | .ldm _ _ | .stya _
  | .aslDp _ | .aslAbs _ | .aslDpX _ | .lsrDp _ | .lsrAbs _ | .lsrDpX _
  | .rolDp _ | .rolAbs _ | .rolDpX _ | .rorDp _ | .rorAbs _ | .rorDpX _
  | .incDp _ | .incAbs _ | .incDpX _ | .decDp _ | .decAbs _ | .decDpX _ | .com _ | .incw _ | .decw _
  | .xmaDp _ | .xmaDpX _ | .xmaIndX | .set1 _ _ | .clr1 _ _ | .not1 _ _ | .stc _ _ | .tset1 _ | .tclr1 _
  | .dbneDp _ _ | .pushA | .pushX | .pushY | .pushPsw | .callAbs _ | .callIndDp _ | .pcall _ | .tcall _
  | .brk => true
  | _ => false

/-! ## The accesses of an instruction (R37, R39, D14) -/

/-- One access to memory. -/
inductive Access
  | read (a : Word)
  | write (a : Word)
  deriving DecidableEq, Repr

/-- The address, if MEMMAP forbids the access: any access to a hole, a write to ROM (R33). -/
def State.forbids (s : State) : Access → Option Word
  | .read a => match s.kindAt a with | .hole => some a | .ram | .rom | .device => none
  | .write a => match s.kindAt a with | .rom | .hole => some a | .ram | .device => none

/-- The address of the first access that MEMMAP forbids. -/
def State.firstForbidden (s : State) (accesses : List Access) : Option Word := accesses.findSome? s.forbids

/-- Reads of these cells, in order. -/
def readsOf (cells : List Word) : List Access := cells.map .read

/-- Writes of these cells, in order. -/
def writesOf (cells : List Word) : List Access := cells.map .write

/-- The accesses of a store: the pointer pair, then the cell (R39). -/
def Mode.storing (m : Mode) (s : State) : List Access := readsOf (m.pointerCells s) ++ writesOf [m.ea s]

/-- The accesses of a read-modify-write (R37). -/
def Mode.modifying (m : Mode) (s : State) : List Access := readsOf [m.ea s] ++ writesOf [m.ea s]

/-- The accesses of an exception entry: three pushes, then the vector pair (R235, R239). -/
def State.entering (s : State) (vector : Word) : List Access := writesOf s.entryCells ++ readsOf (pairCells vector)

/-- The accesses of an instruction to memory other than its fetch, in the order of its rule (R100 to R218). -/
def State.accesses (s : State) : Instr → List Access
  | .adcDp d | .sbcDp d | .cmpDp d | .orDp d | .andDp d | .eorDp d | .ldaDp d | .ldxDp d | .ldyDp d | .cmpxDp d
  | .cmpyDp d | .bitDp d | .tst d | .cbneDp d _ | .bbsDp _ d _ | .bbcDp _ d _ => readsOf [s.dpAddr d]
  | .adcDpX d | .sbcDpX d | .cmpDpX d | .orDpX d | .andDpX d | .eorDpX d | .ldaDpX d | .ldyDpX d
  | .cbneDpX d _ => readsOf [s.dpAddr (d + s.x)]
  | .ldxDpY d => readsOf [s.dpAddr (d + s.y)]
  | .adcAbs w | .sbcAbs w | .cmpAbs w | .orAbs w | .andAbs w | .eorAbs w | .ldaAbs w | .ldxAbs w | .ldyAbs w
  | .cmpxAbs w | .cmpyAbs w | .bitAbs w | .and1 w _ | .and1b w _ | .or1 w _ | .or1b w _ | .eor1 w _ | .eor1b w _
  | .ldc w _ | .ldcb w _ => readsOf [w]
  | .adcIndX | .sbcIndX | .cmpIndX | .orIndX | .andIndX | .eorIndX | .ldaIndX | .ldaIndXInc => readsOf [s.dpAddr s.x]
  | .adcAbsY w | .sbcAbsY w | .cmpAbsY w | .orAbsY w | .andAbsY w | .eorAbsY w
  | .ldaAbsY w => readsOf [(Mode.absY w).ea s]
  | .adcIndDpX d | .sbcIndDpX d | .cmpIndDpX d | .orIndDpX d | .andIndDpX d | .eorIndDpX d
  | .ldaIndDpX d => readsOf (s.dpCells (d + s.x) ++ [(Mode.indDpX d).ea s])
  | .adcIndDpY d | .sbcIndDpY d | .cmpIndDpY d | .orIndDpY d | .andIndDpY d | .eorIndDpY d
  | .ldaIndDpY d => readsOf (s.dpCells d ++ [(Mode.indDpY d).ea s])
  | .addw d | .subw d | .cmpw d | .ldya d | .jmpIndDp d => readsOf (s.dpCells d)
  | .jmpIndAbs w => readsOf (pairCells w)
  | .staDp d | .stxDp d | .styDp d | .ldm _ d => writesOf [s.dpAddr d]
  | .staDpX d | .styDpX d => writesOf [s.dpAddr (d + s.x)]
  | .stxDpY d => writesOf [s.dpAddr (d + s.y)]
  | .staAbs w | .stxAbs w | .styAbs w => writesOf [w]
  | .staIndX | .staIndXInc => writesOf [s.dpAddr s.x]
  | .staAbsY w => writesOf [(Mode.absY w).ea s]
  | .staIndDpX d => (Mode.indDpX d).storing s
  | .staIndDpY d => (Mode.indDpY d).storing s
  | .stya d => writesOf (s.dpCells d)
  | .incw d | .decw d => readsOf (s.dpCells d) ++ writesOf (s.dpCells d)
  | .aslDp d | .lsrDp d | .rolDp d | .rorDp d | .incDp d | .decDp d | .com d | .xmaDp d | .set1 _ d | .clr1 _ d
  | .dbneDp d _ => (Mode.dp d).modifying s
  | .aslDpX d | .lsrDpX d | .rolDpX d | .rorDpX d | .incDpX d | .decDpX d | .xmaDpX d => (Mode.dpX d).modifying s
  | .aslAbs w | .lsrAbs w | .rolAbs w | .rorAbs w | .incAbs w | .decAbs w | .tset1 w | .tclr1 w | .not1 w _
  | .stc w _ => (Mode.abs w).modifying s
  | .xmaIndX => Mode.indX.modifying s
  | .pushA | .pushX | .pushY | .pushPsw => writesOf [stackCell s.sp]
  | .popA | .popX | .popY | .popPsw => readsOf [stackCell (s.sp + 1#8)]
  | .callAbs _ | .pcall _ => writesOf s.callCells
  | .callIndDp d => readsOf (s.dpCells d) ++ writesOf s.callCells
  | .tcall n => writesOf s.callCells ++ readsOf (pairCells (tcallVector n))
  | .brk => s.entering brkVector
  | .ret => readsOf [stackCell (s.sp + 1#8), stackCell (s.sp + 2#8)]
  | .reti => readsOf [stackCell (s.sp + 1#8), stackCell (s.sp + 2#8), stackCell (s.sp + 3#8)]
  | .adcImm _ | .sbcImm _ | .cmpImm _ | .orImm _ | .andImm _ | .eorImm _ | .ldaImm _ | .ldxImm _ | .ldyImm _
  | .cmpxImm _ | .cmpyImm _ | .aslA | .lsrA | .rolA | .rorA | .incA | .incX | .incY | .decA | .decX | .decY
  | .daa | .das | .mul | .div | .xcn | .tax | .tay | .txa | .tya | .tspx | .txsp | .xax | .xay | .xyx
  | .seta1 _ | .clra1 _ | .clrc | .setc | .clrg | .setg | .clrv | .di | .ei | .nop | .stop | .bra _ | .bpl _
  | .bvc _ | .bcc _ | .bne _ | .bmi _ | .bvs _ | .bcs _ | .beq _ | .bbsA _ _ | .bbcA _ _ | .dbneY _
  | .jmpAbs _ => []

/-! ## Packed BCD (R107, R108) -/

/-- Both nibbles are decimal digits. -/
def isBcd (v : Byte) : Bool := decide (v.toNat % 16 ≤ 9) && decide (v.toNat / 16 ≤ 9)

/-- The number that two decimal digits stand for. -/
def bcdValue (v : Byte) : Nat := 10 * (v.toNat / 16) + v.toNat % 16

/-! ## Invariants -/

/-- Where a bit of device state lies among the device registers, if in one. -/
def DeviceBit.place : DeviceBit → Option (Word × BitNo)
  | .hidden _ => none
  | .register a b => some (a, b)

/-- IRQ_TABLE is as R232 and R233 say: vectors are even addresses in `FFE0h` to `FFFCh`, names and priorities are
distinct, and so are the bits that hold the requests. -/
def irqTableOk (table : List IrqSource) : Bool :=
  decide ((table.map IrqSource.id).Nodup) && decide ((table.map IrqSource.priority).Nodup) &&
    decide ((table.filterMap fun src => src.request.place).Nodup) &&
    table.all fun src =>
      decide (0xFFE0 ≤ src.vector.toNat) && decide (src.vector.toNat ≤ 0xFFFC) && decide (src.vector.toNat % 2 = 0)

/-- A bit of device state that lies at an address lies in a device register of MEMMAP (R232). -/
def State.placed (s : State) (d : DeviceBit) : Bool :=
  match d with
  | .hidden _ => true
  | .register a _ => decide (s.kindAt a = .device)

/-- Every state of the machine should have this: memory in canonical form, an admissible IRQ_TABLE whose enables and
requests are device state. -/
def State.inv (s : State) : Bool :=
  s.mem.wf && irqTableOk s.irqTable && s.irqTable.all fun src => s.placed src.enable && s.placed src.request

/-- The parameters of the chip: MEMMAP, and each source's name, vector, priority, enable and the place of its request;
with them the enables that no device register holds. -/
def State.parameters (s : State) : List Region × List (Nat × Word × Nat × DeviceBit × Option (Word × BitNo)) :=
  (s.memMap, s.irqTable.map fun t => (t.id, t.vector, t.priority, t.enable, t.request.place))

end Sys2Proof.Machine
end

