-- ==== Sys2Proof/Certificates/Slice0/Obligations.lean ====
section
/-! DEFINITION. The statements for the provers, in the order of OBLIGATIONS.json. `exec` is stated at a state whose PC is
already the address of the next instruction (R13). Where a docstring names a log entry, the clause is the model's choice
or a decision of the spec, not a rule of the manual. -/

section SliceStatements

open Sys2Proof Sys2Proof.Machine

/-- ADC (R100): the eight op codes, the 9-bit sum, the flags N V H Z C, and the frame. That a form with a direct-page
pair runs at offset FFh too is the model's choice (log 5; R36 and D2 refuse it). -/
def Obligations.AdcResult : Prop :=
  ∀ (o : Src) (i : Instr) (s : State), adcForm o = some i → CanRead s (o.cells s) →
    encode i = groupOpcode 0 o :: o.bytes ∧
    NextWith (exec i s) fun t =>
      t.a = BitVec.ofNat 8 (s.a.toNat + (o.value s).toNat + (s.flag .c).toNat) ∧
      (t.flag .c = true ↔ 255 < s.a.toNat + (o.value s).toNat + (s.flag .c).toNat) ∧
      (t.flag .h = true ↔ 15 < s.a.toNat % 16 + (o.value s).toNat % 16 + (s.flag .c).toNat) ∧
      (t.flag .v = true ↔
        s.a.getLsbD 7 = (o.value s).getLsbD 7 ∧ t.a.getLsbD 7 ≠ s.a.getLsbD 7) ∧
      NZOf8 t t.a ∧ t.pc = s.pc ∧ OnlyChanges s t [.a] [.n, .v, .h, .z, .c] []

/-- SBC (R118). The borrow convention of C and H is the spec's decision D30 (log 24). That a form with a direct-page
pair runs at offset FFh too is the model's choice (log 5; R36 and D2 refuse it). -/
def Obligations.SbcResult : Prop :=
  ∀ (o : Src) (i : Instr) (s : State), sbcForm o = some i → CanRead s (o.cells s) →
    encode i = groupOpcode 1 o :: o.bytes ∧
    NextWith (exec i s) fun t =>
      t.a = BitVec.ofInt 8 ((s.a.toNat : Int) - (o.value s).toNat - (1 - (s.flag .c).toNat)) ∧
      (t.flag .c = true ↔ (o.value s).toNat + (1 - (s.flag .c).toNat) ≤ s.a.toNat) ∧
      (t.flag .h = true ↔ (o.value s).toNat % 16 + (1 - (s.flag .c).toNat) ≤ s.a.toNat % 16) ∧
      (t.flag .v = true ↔
        s.a.getLsbD 7 ≠ (o.value s).getLsbD 7 ∧ t.a.getLsbD 7 ≠ s.a.getLsbD 7) ∧
      NZOf8 t t.a ∧ t.pc = s.pc ∧ OnlyChanges s t [.a] [.n, .v, .h, .z, .c] []

/-- V is overflow of signed arithmetic (meaning of V in R14), derived from the bit formulas of R100, R118, R150 and
R156. That a form with a direct-page pair runs at offset FFh too is the model's choice (log 5; R36 and D2 refuse it).
-/
def Obligations.OverflowIsSigned : Prop :=
  ∀ s : State,
    (∀ o i, adcForm o = some i → CanRead s (o.cells s) → NextWith (exec i s) fun t =>
      (t.flag .v = true ↔
        s.a.toInt + (o.value s).toInt + (s.flag .c).toNat < -128 ∨
          127 < s.a.toInt + (o.value s).toInt + (s.flag .c).toNat)) ∧
    (∀ o i, sbcForm o = some i → CanRead s (o.cells s) → NextWith (exec i s) fun t =>
      (t.flag .v = true ↔
        s.a.toInt - (o.value s).toInt - (!s.flag .c).toNat < -128 ∨
          127 < s.a.toInt - (o.value s).toInt - (!s.flag .c).toNat)) ∧
    (∀ dp, CanRead s (s.dpCells dp) → NextWith (exec (.addw dp) s) fun t =>
      (t.flag .v = true ↔
        s.ya.toInt + (s.dpWord dp).toInt < -32768 ∨ 32767 < s.ya.toInt + (s.dpWord dp).toInt)) ∧
    (∀ dp, CanRead s (s.dpCells dp) → NextWith (exec (.subw dp) s) fun t =>
      (t.flag .v = true ↔
        s.ya.toInt - (s.dpWord dp).toInt < -32768 ∨ 32767 < s.ya.toInt - (s.dpWord dp).toInt))

/-- AND, EOR and OR (R101, R111, R115), bit by bit. That a form with a direct-page pair runs at offset FFh too is the
model's choice (log 5; R36 and D2 refuse it). -/
def Obligations.LogicResult : Prop :=
  ∀ (op : LogicOp) (o : Src) (i : Instr) (s : State), logicForm op o = some i → CanRead s (o.cells s) →
    encode i = groupOpcode (logicRow op) o :: o.bytes ∧
    NextWith (exec i s) fun t =>
      (∀ k, t.a.getLsbD k = logicBit op (s.a.getLsbD k) ((o.value s).getLsbD k)) ∧
      NZOf8 t t.a ∧ t.pc = s.pc ∧ OnlyChanges s t [.a] [.n, .z] []

/-- CMP, CMPX, CMPY (R103, R104, R105); the borrow convention is decision D30 (log 24). That a form with a direct-page
pair runs at offset FFh too is the model's choice (log 5; R36 and D2 refuse it). -/
def Obligations.CompareResult : Prop :=
  ∀ (r : Reg) (o : Src) (i : Instr) (s : State), compareForm r o = some i → CanRead s (o.cells s) →
    encode i = compareOpcode r o :: o.bytes ∧
    NextWith (exec i s) fun t =>
      (t.flag .c = true ↔ (o.value s).toNat ≤ (s.reg r).toNat) ∧
      NZOf8 t (BitVec.ofInt 8 ((s.reg r).toNat - (o.value s).toNat)) ∧
      t.pc = s.pc ∧ OnlyChanges s t [] [.n, .z, .c] []

/-- R102, R113, R116, R117: shifts and rotations, bit by bit, in the A form and the three memory forms. -/
def Obligations.ShiftResult : Prop :=
  ∀ (op : ShiftOp) (s : State),
    let top : Bool := match op with | .ror => s.flag .c | _ => false
    let bottom : Bool := match op with | .rol => s.flag .c | _ => false
    let IsResult : Byte → Byte → Prop := fun v r => ∀ k, k < 8 → r.getLsbD k =
      match op with
      | .asl | .rol => if k = 0 then bottom else v.getLsbD (k - 1)
      | .lsr | .ror => if k = 7 then top else v.getLsbD (k + 1)
    let carry : Byte → Bool := fun v => match op with | .asl | .rol => v.getLsbD 7 | .lsr | .ror => v.getLsbD 0
    (encode (shiftFormA op) = [stepOpcode (shiftRow op) none] ∧
      NextWith (exec (shiftFormA op) s) fun t =>
        IsResult s.a t.a ∧ t.flag .c = carry s.a ∧ NZOf8 t t.a ∧
        t.pc = s.pc ∧ OnlyChanges s t [.a] [.n, .z, .c] []) ∧
    ∀ (m : Mode) (i : Instr), shiftFormMem op m = some i → Writable s (m.ea s) →
      encode i = stepOpcode (shiftRow op) (some m) :: m.bytes ∧
      NextWith (exec i s) fun t =>
        IsResult (s.byteAt (m.ea s)) (t.byteAt (m.ea s)) ∧ t.flag .c = carry (s.byteAt (m.ea s)) ∧
        NZOf8 t (t.byteAt (m.ea s)) ∧ t.pc = s.pc ∧ OnlyChanges s t [] [.n, .z, .c] [m.ea s]

/-- INC (R112). C after INC A is open (D11): a free value of the model (log 8), of which nothing is said. -/
def Obligations.IncrementResult : Prop :=
  ∀ s : State,
    (∀ (m : Mode) (i : Instr), stepFormMem true m = some i → Writable s (m.ea s) →
      encode i = stepOpcode 4 (some m) :: m.bytes ∧
      NextWith (exec i s) fun t =>
        (t.byteAt (m.ea s)).toNat = ((s.byteAt (m.ea s)).toNat + 1) % 256 ∧ NZOf8 t (t.byteAt (m.ea s)) ∧
        t.pc = s.pc ∧ OnlyChanges s t [] [.n, .z] [m.ea s]) ∧
    (encode .incX = [0x8F] ∧ NextWith (exec .incX s) fun t =>
      t.x.toNat = (s.x.toNat + 1) % 256 ∧ NZOf8 t t.x ∧ t.pc = s.pc ∧ OnlyChanges s t [.x] [.n, .z] []) ∧
    (encode .incY = [0x9E] ∧ NextWith (exec .incY s) fun t =>
      t.y.toNat = (s.y.toNat + 1) % 256 ∧ NZOf8 t t.y ∧ t.pc = s.pc ∧ OnlyChanges s t [.y] [.n, .z] []) ∧
    (encode .incA = [0x88] ∧ NextWith (exec .incA s) fun t =>
      t.a.toNat = (s.a.toNat + 1) % 256 ∧ NZOf8 t t.a ∧ t.pc = s.pc ∧ OnlyChanges s t [.a] [.n, .z, .c] [])

/-- R109: DEC. -/
def Obligations.DecrementResult : Prop :=
  ∀ s : State,
    (∀ (m : Mode) (i : Instr), stepFormMem false m = some i → Writable s (m.ea s) →
      encode i = stepOpcode 5 (some m) :: m.bytes ∧
      NextWith (exec i s) fun t =>
        (t.byteAt (m.ea s)).toNat = ((s.byteAt (m.ea s)).toNat + 255) % 256 ∧ NZOf8 t (t.byteAt (m.ea s)) ∧
        t.pc = s.pc ∧ OnlyChanges s t [] [.n, .z] [m.ea s]) ∧
    (∀ i op r, (i, op, r) ∈ [(Instr.decA, 0xA8#8, Reg.a), (.decX, 0xAF#8, .x), (.decY, 0xBE#8, .y)] →
      encode i = [op] ∧
      NextWith (exec i s) fun t =>
        (t.reg r).toNat = ((s.reg r).toNat + 255) % 256 ∧ NZOf8 t (t.reg r) ∧
        t.pc = s.pc ∧ OnlyChanges s t [r] [.n, .z] [])

/-- R106, R119: COM and TST. -/
def Obligations.ComplementAndTest : Prop :=
  ∀ (dp : Byte) (s : State),
    (Writable s (s.dpAddr dp) → encode (.com dp) = [0x2C, dp] ∧
      NextWith (exec (.com dp) s) fun t =>
        (∀ k, k < 8 → (t.byteAt (s.dpAddr dp)).getLsbD k = !(s.byteAt (s.dpAddr dp)).getLsbD k) ∧
        NZOf8 t (t.byteAt (s.dpAddr dp)) ∧ t.pc = s.pc ∧ OnlyChanges s t [] [.n, .z] [s.dpAddr dp]) ∧
    (Readable s (s.dpAddr dp) → encode (.tst dp) = [0x4C, dp] ∧
      NextWith (exec (.tst dp) s) fun t =>
        NZOf8 t (s.byteAt (s.dpAddr dp)) ∧ t.pc = s.pc ∧ OnlyChanges s t [] [.n, .z] [])

/-- "The default is guaranteed to give the decimal sum only when A, C and H are those left by ADC of two valid
packed-BCD bytes" (R107, and R108 for DAS). The functions are the model's default for D10 (log 12). -/
def Obligations.BcdAddAndSubtract : Prop :=
  ∀ (v : Byte) (s : State), isBcd s.a = true → isBcd v = true →
    (NextWith (exec (.adcImm v) s) fun t => NextWith (exec .daa t) fun u =>
      isBcd u.a = true ∧ bcdValue u.a = (bcdValue s.a + bcdValue v + (s.flag .c).toNat) % 100 ∧
      (u.flag .c = true ↔ 100 ≤ bcdValue s.a + bcdValue v + (s.flag .c).toNat)) ∧
    (NextWith (exec (.sbcImm v) s) fun t => NextWith (exec .das t) fun u =>
      isBcd u.a = true ∧
      bcdValue u.a = (100 + bcdValue s.a - bcdValue v - (1 - (s.flag .c).toNat)) % 100 ∧
      (u.flag .c = true ↔ bcdValue v + (1 - (s.flag .c).toNat) ≤ bcdValue s.a))

/-- DAA and DAS (R107, R108) with the default functions of D10 (UNVERIFIED, log 12). -/
def Obligations.DecimalAdjustResult : Prop :=
  ∀ s : State,
    (encode .daa = [0xDF] ∧ NextWith (exec .daa s) fun t =>
      (t.flag .c = true ↔ s.flag .c = true ∨ 0x99 < s.a.toNat) ∧
      t.a.toNat = (s.a.toNat + (if s.flag .c = true ∨ 0x99 < s.a.toNat then 0x60 else 0) +
        (if s.flag .h = true ∨ 9 < s.a.toNat % 16 then 6 else 0)) % 256 ∧
      NZOf8 t t.a ∧ t.pc = s.pc ∧ OnlyChanges s t [.a] [.n, .z, .c] []) ∧
    (encode .das = [0xCF] ∧ NextWith (exec .das s) fun t =>
      (t.flag .c = true ↔ s.flag .c = true ∧ s.a.toNat ≤ 0x99) ∧
      t.a.toNat = (s.a.toNat + (if s.flag .c = true ∧ s.a.toNat ≤ 0x99 then 0 else 256 - 0x60) +
        (if s.flag .h = true ∧ s.a.toNat % 16 ≤ 9 then 0 else 256 - 6)) % 256 ∧
      NZOf8 t t.a ∧ t.pc = s.pc ∧ OnlyChanges s t [.a] [.n, .z, .c] [])

/-- MUL (R114). N and Z are open (D8; log 6). -/
def Obligations.MulResult : Prop :=
  ∀ s : State, encode .mul = [0x5B] ∧
    NextWith (exec .mul s) fun t =>
      256 * t.y.toNat + t.a.toNat = s.y.toNat * s.a.toNat ∧ t.pc = s.pc ∧ OnlyChanges s t [.a, .y] [.n, .z] []

/-- DIV (R110). H, and on overflow A, Y, N and Z, are open (D9): free values of the model (log 7). -/
def Obligations.DivResult : Prop :=
  ∀ s : State, encode .div = [0x9B] ∧
    NextWith (exec .div s) fun t =>
      (if s.y.toNat < s.x.toNat then
        256 * s.y.toNat + s.a.toNat = t.a.toNat * s.x.toNat + t.y.toNat ∧ t.y.toNat < s.x.toNat ∧
          t.flag .v = false ∧ NZOf8 t t.a
      else t.flag .v = true) ∧
      t.pc = s.pc ∧ OnlyChanges s t [.a, .y] [.n, .v, .h, .z] []

/-- R120: XCN. -/
def Obligations.NibbleExchange : Prop :=
  ∀ s : State, encode .xcn = [0xCE] ∧
    NextWith (exec .xcn s) fun t =>
      (∀ k, k < 8 → t.a.getLsbD k = s.a.getLsbD ((k + 4) % 8)) ∧
      NZOf8 t t.a ∧ t.pc = s.pc ∧ OnlyChanges s t [.a] [.n, .z] []

/-- The loads (R130, R132, R133). That a form with a direct-page pair runs at offset FFh too is the model's choice
(log 5; R36 and D2 refuse it). -/
def Obligations.LoadResult : Prop :=
  ∀ s : State,
    (∀ (r : Reg) (o : Src) (i : Instr), loadForm r o = some i → CanRead s (o.cells s) →
      encode i = loadOpcode r o :: o.bytes ∧
      NextWith (exec i s) fun t =>
        t.reg r = o.value s ∧ NZOf8 t (o.value s) ∧ t.pc = s.pc ∧ OnlyChanges s t [r] [.n, .z] []) ∧
    (Readable s (s.dpAddr s.x) → encode .ldaIndXInc = [0xDB] ∧
      NextWith (exec .ldaIndXInc s) fun t =>
        t.a = s.byteAt (s.dpAddr s.x) ∧ t.x.toNat = (s.x.toNat + 1) % 256 ∧ NZOf8 t t.a ∧
        t.pc = s.pc ∧ OnlyChanges s t [.a, .x] [.n, .z] [])

/-- The stores (R131, R134, R135, R136). That a form with a direct-page pair runs at offset FFh too is the model's
choice (log 5; R36 and D2 refuse it). -/
def Obligations.StoreResult : Prop :=
  ∀ s : State,
    (∀ (r : Reg) (m : Mode) (i : Instr), storeForm r m = some i → CanRead s (m.pointerCells s) →
      Writable s (m.ea s) →
      encode i = storeOpcode r m :: m.bytes ∧
      NextWith (exec i s) fun t =>
        t.byteAt (m.ea s) = s.reg r ∧ t.pc = s.pc ∧ OnlyChanges s t [] [] [m.ea s]) ∧
    (∀ imm dp, Writable s (s.dpAddr dp) → encode (.ldm imm dp) = [0xE4, imm, dp] ∧
      NextWith (exec (.ldm imm dp) s) fun t =>
        t.byteAt (s.dpAddr dp) = imm ∧ t.pc = s.pc ∧ OnlyChanges s t [] [] [s.dpAddr dp]) ∧
    (Writable s (s.dpAddr s.x) → encode .staIndXInc = [0xFB] ∧
      NextWith (exec .staIndXInc s) fun t =>
        t.byteAt (s.dpAddr s.x) = s.a ∧ t.x.toNat = (s.x.toNat + 1) % 256 ∧
        t.pc = s.pc ∧ OnlyChanges s t [.x] [] [s.dpAddr s.x])

/-- R137, R138, R139, R140, R142: the register transfers. -/
def Obligations.TransferResult : Prop :=
  ∀ (i : Instr) (op : Byte) (src dst : Reg) (s : State),
    (i, op, src, dst) ∈ [(.tax, 0xE8#8, .a, .x), (.tay, 0x9F#8, .a, .y), (.tspx, 0xAE#8, .sp, .x),
      (.txa, 0xC8#8, .x, .a), (.tya, 0xBF#8, .y, .a)] →
    encode i = [op] ∧
    NextWith (exec i s) fun t =>
      t.reg dst = s.reg src ∧ NZOf8 t (s.reg src) ∧ t.pc = s.pc ∧ OnlyChanges s t [dst] [.n, .z] []

/-- TXSP (R141). N and Z are open (D23): free values (log 10). -/
def Obligations.TxspResult : Prop :=
  ∀ s : State, encode .txsp = [0x8E] ∧
    NextWith (exec .txsp s) fun t => t.sp = s.x ∧ t.pc = s.pc ∧ OnlyChanges s t [.sp] [.n, .z] []

/-- R143, R144, R146: the register exchanges. -/
def Obligations.ExchangeResult : Prop :=
  ∀ (i : Instr) (op : Byte) (p q : Reg) (s : State),
    (i, op, p, q) ∈ [(.xax, 0xEE#8, .a, .x), (.xay, 0xDE#8, .a, .y), (.xyx, 0xFE#8, .x, .y)] →
    encode i = [op] ∧
    NextWith (exec i s) fun t =>
      t.reg p = s.reg q ∧ t.reg q = s.reg p ∧ t.pc = s.pc ∧ OnlyChanges s t [p, q] [] []

/-- XMA (R145); N and Z from the byte loaded are decision D24 (log 24). -/
def Obligations.XmaResult : Prop :=
  ∀ (m : Mode) (i : Instr) (s : State), xmaForm m = some i → Writable s (m.ea s) →
    (encode i = match m with | .dp d => [0xBC, d] | .dpX d => [0xAD, d] | _ => [0xBB]) ∧
    NextWith (exec i s) fun t =>
      t.a = s.byteAt (m.ea s) ∧ t.byteAt (m.ea s) = s.a ∧ NZOf8 t t.a ∧ t.pc = s.pc ∧
      OnlyChanges s t [.a] [.n, .z] [m.ea s]

/-- ADDW (R150). H is decision D13 (log 11); that offset FFh runs at all is the model's choice (log 5). -/
def Obligations.AddwResult : Prop :=
  ∀ (dp : Byte) (s : State), CanRead s (s.dpCells dp) → encode (.addw dp) = [0x1D, dp] ∧
    NextWith (exec (.addw dp) s) fun t =>
      t.ya.toNat = (s.ya.toNat + (s.dpWord dp).toNat) % 65536 ∧
      (t.flag .c = true ↔ 65535 < s.ya.toNat + (s.dpWord dp).toNat) ∧
      (t.flag .h = true ↔ 0xFFF < s.ya.toNat % 0x1000 + (s.dpWord dp).toNat % 0x1000) ∧
      (t.flag .v = true ↔
        s.ya.getLsbD 15 = (s.dpWord dp).getLsbD 15 ∧ t.ya.getLsbD 15 ≠ s.ya.getLsbD 15) ∧
      NZOf16 t t.ya ∧ t.pc = s.pc ∧ OnlyChanges s t [.a, .y] [.n, .v, .h, .z, .c] []

/-- SUBW and CMPW (R156, R151). H is decision D13 (log 11), the borrow convention D30 (log 24), offset FFh log 5. -/
def Obligations.SubwCmpwResult : Prop :=
  ∀ (dp : Byte) (s : State), CanRead s (s.dpCells dp) →
    (encode (.subw dp) = [0x3D, dp] ∧ NextWith (exec (.subw dp) s) fun t =>
      t.ya = BitVec.ofInt 16 ((s.ya.toNat : Int) - (s.dpWord dp).toNat) ∧
      (t.flag .c = true ↔ (s.dpWord dp).toNat ≤ s.ya.toNat) ∧
      (t.flag .h = true ↔ (s.dpWord dp).toNat % 0x1000 ≤ s.ya.toNat % 0x1000) ∧
      (t.flag .v = true ↔
        s.ya.getLsbD 15 ≠ (s.dpWord dp).getLsbD 15 ∧ t.ya.getLsbD 15 ≠ s.ya.getLsbD 15) ∧
      NZOf16 t t.ya ∧ t.pc = s.pc ∧ OnlyChanges s t [.a, .y] [.n, .v, .h, .z, .c] []) ∧
    (encode (.cmpw dp) = [0x5D, dp] ∧ NextWith (exec (.cmpw dp) s) fun t =>
      (t.flag .c = true ↔ (s.dpWord dp).toNat ≤ s.ya.toNat) ∧
      NZOf16 t (BitVec.ofInt 16 ((s.ya.toNat : Int) - (s.dpWord dp).toNat)) ∧
      t.pc = s.pc ∧ OnlyChanges s t [] [.n, .z, .c] [])

/-- LDYA and STYA (R154, R155). That offset FFh runs, under either reading of PAIR_WRAP, is the model's choice (log
5). -/
def Obligations.PairLoadStoreResult : Prop :=
  ∀ (dp : Byte) (s : State),
    (CanRead s (s.dpCells dp) → encode (.ldya dp) = [0x7D, dp] ∧
      NextWith (exec (.ldya dp) s) fun t =>
        t.a = s.byteAt (s.dpAddr dp) ∧ t.y = s.byteAt (s.dpAddrHi dp) ∧ NZOf16 t t.ya ∧
        t.pc = s.pc ∧ OnlyChanges s t [.a, .y] [.n, .z] []) ∧
    (CanWrite s (s.dpCells dp) → encode (.stya dp) = [0xDD, dp] ∧
      NextWith (exec (.stya dp) s) fun t =>
        t.byteAt (s.dpAddr dp) = s.a ∧ t.byteAt (s.dpAddrHi dp) = s.y ∧
        t.pc = s.pc ∧ OnlyChanges s t [] [] (s.dpCells dp))

/-- INCW and DECW (R153, R152). That offset FFh runs is the model's choice (log 5). -/
def Obligations.PairStepResult : Prop :=
  ∀ (dp : Byte) (s : State), CanWrite s (s.dpCells dp) →
    (encode (.incw dp) = [0x9D, dp] ∧ NextWith (exec (.incw dp) s) fun t =>
      (mkWord (t.byteAt (s.dpAddrHi dp)) (t.byteAt (s.dpAddr dp))).toNat = ((s.dpWord dp).toNat + 1) % 65536 ∧
      NZOf16 t (mkWord (t.byteAt (s.dpAddrHi dp)) (t.byteAt (s.dpAddr dp))) ∧
      t.pc = s.pc ∧ OnlyChanges s t [] [.n, .z] (s.dpCells dp)) ∧
    (encode (.decw dp) = [0xBD, dp] ∧ NextWith (exec (.decw dp) s) fun t =>
      (mkWord (t.byteAt (s.dpAddrHi dp)) (t.byteAt (s.dpAddr dp))).toNat =
        ((s.dpWord dp).toNat + 65535) % 65536 ∧
      NZOf16 t (mkWord (t.byteAt (s.dpAddrHi dp)) (t.byteAt (s.dpAddr dp))) ∧
      t.pc = s.pc ∧ OnlyChanges s t [] [.n, .z] (s.dpCells dp))

/-- R160, R161, R168 to R171, R173, R174: the bit operations on C. -/
def Obligations.CarryBitResult : Prop :=
  ∀ (i : Instr) (op : Byte) (rev : Bool) (f : Bool → Bool → Bool) (addr : Word) (b : BitNo) (s : State),
    (i, op, rev, f) ∈ [(Instr.and1 addr b, 0x8B#8, false, fun c m => c && m),
      (.and1b addr b, 0x8B#8, true, fun c m => c && !m), (.or1 addr b, 0x6B#8, false, fun c m => c || m),
      (.or1b addr b, 0x6B#8, true, fun c m => c || !m), (.eor1 addr b, 0xAB#8, false, fun c m => c ^^ m),
      (.eor1b addr b, 0xAB#8, true, fun c m => c ^^ !m), (.ldc addr b, 0xCB#8, false, fun _ m => m),
      (.ldcb addr b, 0xCB#8, true, fun _ m => !m)] →
    Readable s addr →
    encode i = [op, loByte addr, b ++ BitVec.ofBool rev ++ addr.extractLsb' 8 4] ∧
    NextWith (exec i s) fun t =>
      t.flag .c = f (s.flag .c) ((s.byteAt addr).getLsbD b.toNat) ∧
      t.pc = s.pc ∧ OnlyChanges s t [] [.c] []

/-- R172, R179: NOT1 and STC. -/
def Obligations.BitStoreResult : Prop :=
  ∀ (addr : Word) (b : BitNo) (s : State), Writable s addr →
    (encode (.not1 addr b) = [0x4B, loByte addr, b ++ 0#1 ++ addr.extractLsb' 8 4] ∧
      NextWith (exec (.not1 addr b) s) fun t =>
        (∀ k, k < 8 → (t.byteAt addr).getLsbD k =
          if k = b.toNat then !(s.byteAt addr).getLsbD k else (s.byteAt addr).getLsbD k) ∧
        t.pc = s.pc ∧ OnlyChanges s t [] [] [addr]) ∧
    (encode (.stc addr b) = [0xEB, loByte addr, b ++ 0#1 ++ addr.extractLsb' 8 4] ∧
      NextWith (exec (.stc addr b) s) fun t =>
        (∀ k, k < 8 → (t.byteAt addr).getLsbD k =
          if k = b.toNat then s.flag .c else (s.byteAt addr).getLsbD k) ∧
        t.pc = s.pc ∧ OnlyChanges s t [] [] [addr])

/-- R163, R164, R175, R176: set and clear one bit. -/
def Obligations.SetClearBitResult : Prop :=
  ∀ (b : BitNo) (s : State),
    (∀ (dp : Byte) (v : Bool), Writable s (s.dpAddr dp) →
      encode (if v then .set1 b dp else .clr1 b dp) = [b ++ (if v then 0x01#5 else 0x11#5), dp] ∧
      NextWith (exec (if v then .set1 b dp else .clr1 b dp) s) fun t =>
        (∀ k, k < 8 → (t.byteAt (s.dpAddr dp)).getLsbD k =
          if k = b.toNat then v else (s.byteAt (s.dpAddr dp)).getLsbD k) ∧
        t.pc = s.pc ∧ OnlyChanges s t [] [] [s.dpAddr dp]) ∧
    (∀ v : Bool,
      encode (if v then .seta1 b else .clra1 b) = [if v then 0x0B else 0x2B, b ++ 0#5] ∧
      NextWith (exec (if v then .seta1 b else .clra1 b) s) fun t =>
        (∀ k, k < 8 → t.a.getLsbD k = if k = b.toNat then v else s.a.getLsbD k) ∧
        t.pc = s.pc ∧ OnlyChanges s t [.a] [] [])

/-- R165, R166, R167, R177, R178, R213: the flag instructions and NOP. -/
def Obligations.FlagInstructionResult : Prop :=
  ∀ s : State,
    (encode .clrc = [0x20] ∧ NextWith (exec .clrc s) fun t =>
      t.flag .c = false ∧ t.pc = s.pc ∧ OnlyChanges s t [] [.c] []) ∧
    (encode .setc = [0xA0] ∧ NextWith (exec .setc s) fun t =>
      t.flag .c = true ∧ t.pc = s.pc ∧ OnlyChanges s t [] [.c] []) ∧
    (encode .clrg = [0x40] ∧ NextWith (exec .clrg s) fun t =>
      t.flag .g = false ∧ (∀ off : Byte, t.dpAddr off = 0x00#8 ++ off) ∧ t.pc = s.pc ∧ OnlyChanges s t [] [.g] []) ∧
    (encode .setg = [0xC0] ∧ NextWith (exec .setg s) fun t =>
      t.flag .g = true ∧ (∀ off : Byte, t.dpAddr off = 0x01#8 ++ off) ∧ t.pc = s.pc ∧ OnlyChanges s t [] [.g] []) ∧
    (encode .clrv = [0x80] ∧ NextWith (exec .clrv s) fun t =>
      t.flag .v = false ∧ t.flag .h = false ∧ t.pc = s.pc ∧ OnlyChanges s t [] [.v, .h] []) ∧
    (encode .nop = [0xFF] ∧ NextWith (exec .nop s) fun t => t.pc = s.pc ∧ OnlyChanges s t [] [] [])

/-- R162: BIT. -/
def Obligations.BitTestResult : Prop :=
  ∀ s : State,
    (∀ dp, Readable s (s.dpAddr dp) → encode (.bitDp dp) = [0x0C, dp] ∧
      NextWith (exec (.bitDp dp) s) fun t =>
        (t.flag .z = true ↔ ∀ k, (s.a.getLsbD k && (s.byteAt (s.dpAddr dp)).getLsbD k) = false) ∧
        t.flag .n = (s.byteAt (s.dpAddr dp)).getLsbD 7 ∧ t.flag .v = (s.byteAt (s.dpAddr dp)).getLsbD 6 ∧
        t.pc = s.pc ∧ OnlyChanges s t [] [.n, .v, .z] []) ∧
    (∀ addr, Readable s addr → encode (.bitAbs addr) = [0x1C, loByte addr, hiByte addr] ∧
      NextWith (exec (.bitAbs addr) s) fun t =>
        (t.flag .z = true ↔ ∀ k, (s.a.getLsbD k && (s.byteAt addr).getLsbD k) = false) ∧
        t.flag .n = (s.byteAt addr).getLsbD 7 ∧ t.flag .v = (s.byteAt addr).getLsbD 6 ∧
        t.pc = s.pc ∧ OnlyChanges s t [] [.n, .v, .z] [])

/-- TSET1 and TCLR1 (R181, R180); the flags are decision D25 (log 24). -/
def Obligations.TestAndSetResult : Prop :=
  ∀ (addr : Word) (s : State), Writable s addr →
    (encode (.tset1 addr) = [0x3C, loByte addr, hiByte addr] ∧ NextWith (exec (.tset1 addr) s) fun t =>
      (∀ k, (t.byteAt addr).getLsbD k = ((s.byteAt addr).getLsbD k || s.a.getLsbD k)) ∧
      NZOf8 t (BitVec.ofInt 8 ((s.a.toNat : Int) - (s.byteAt addr).toNat)) ∧
      t.pc = s.pc ∧ OnlyChanges s t [] [.n, .z] [addr]) ∧
    (encode (.tclr1 addr) = [0x5C, loByte addr, hiByte addr] ∧ NextWith (exec (.tclr1 addr) s) fun t =>
      (∀ k, (t.byteAt addr).getLsbD k = ((s.byteAt addr).getLsbD k && !s.a.getLsbD k)) ∧
      NZOf8 t (BitVec.ofInt 8 ((s.a.toNat : Int) - (s.byteAt addr).toNat)) ∧
      t.pc = s.pc ∧ OnlyChanges s t [] [.n, .z] [addr])

/-- R190, R191: branch on a bit. PC before exec is the address of the next instruction. -/
def Obligations.BitBranchResult : Prop :=
  ∀ (b : BitNo) (rel : Byte) (v : Bool) (s : State),
    (encode (if v then .bbsA b rel else .bbcA b rel) = [b ++ (if v then 0x02#5 else 0x12#5), rel] ∧
      NextWith (exec (if v then .bbsA b rel else .bbcA b rel) s) fun t =>
        t.pc = (if s.a.getLsbD b.toNat = v then branchTarget s.pc rel else s.pc) ∧ OnlyChanges s t [] [] []) ∧
    (∀ dp, Readable s (s.dpAddr dp) →
      encode (if v then .bbsDp b dp rel else .bbcDp b dp rel) = [b ++ (if v then 0x03#5 else 0x13#5), dp, rel] ∧
      NextWith (exec (if v then .bbsDp b dp rel else .bbcDp b dp rel) s) fun t =>
        t.pc = (if (s.byteAt (s.dpAddr dp)).getLsbD b.toNat = v then branchTarget s.pc rel else s.pc) ∧
        OnlyChanges s t [] [] [])

/-- R192 to R200: branch on a flag, and BRA. PC before exec is the address of the next instruction. -/
def Obligations.FlagBranchResult : Prop :=
  ∀ (rel : Byte) (s : State),
    (∀ (f : Flag) (v : Bool) (i : Instr), branchForm f v rel = some i →
      encode i = [branchOpcode f v, rel] ∧
      NextWith (exec i s) fun t =>
        t.pc = (if s.flag f = v then branchTarget s.pc rel else s.pc) ∧ OnlyChanges s t [] [] []) ∧
    (encode (.bra rel) = [0x2F, rel] ∧
      NextWith (exec (.bra rel) s) fun t => t.pc = branchTarget s.pc rel ∧ OnlyChanges s t [] [] [])

/-- CBNE (R202). N, Z and C are open (D12): free values (log 9). -/
def Obligations.CompareBranchResult : Prop :=
  ∀ (m : Mode) (rel : Byte) (i : Instr) (s : State), cbneForm m rel = some i → Readable s (m.ea s) →
    (encode i = match m with | .dp d => [0xFD, d, rel] | .dpX d => [0x8D, d, rel] | _ => []) ∧
    NextWith (exec i s) fun t =>
      t.pc = (if s.a ≠ s.byteAt (m.ea s) then branchTarget s.pc rel else s.pc) ∧
      OnlyChanges s t [] [.n, .z, .c] []

/-- DBNE (R203). N and Z are open (D12): free values (log 9). -/
def Obligations.DecrementBranchResult : Prop :=
  ∀ (rel : Byte) (s : State),
    (∀ dp, Writable s (s.dpAddr dp) → encode (.dbneDp dp rel) = [0xAC, dp, rel] ∧
      NextWith (exec (.dbneDp dp rel) s) fun t =>
        (t.byteAt (s.dpAddr dp)).toNat = ((s.byteAt (s.dpAddr dp)).toNat + 255) % 256 ∧
        t.pc = (if t.byteAt (s.dpAddr dp) = 0 then s.pc else branchTarget s.pc rel) ∧
        OnlyChanges s t [] [.n, .z] [s.dpAddr dp]) ∧
    (encode (.dbneY rel) = [0x7B, rel] ∧ NextWith (exec (.dbneY rel) s) fun t =>
      t.y.toNat = (s.y.toNat + 255) % 256 ∧
      t.pc = (if t.y = 0 then s.pc else branchTarget s.pc rel) ∧ OnlyChanges s t [.y] [.n, .z] [])

/-- JMP (R204). Offset FFh of [dp] is the model's choice (log 5). -/
def Obligations.JumpResult : Prop :=
  ∀ s : State,
    (∀ addr, encode (.jmpAbs addr) = [0x1B, loByte addr, hiByte addr] ∧
      NextWith (exec (.jmpAbs addr) s) fun t => t.pc = addr ∧ OnlyChanges s t [] [] []) ∧
    (∀ addr, CanRead s (pairCells addr) → encode (.jmpIndAbs addr) = [0x1F, loByte addr, hiByte addr] ∧
      NextWith (exec (.jmpIndAbs addr) s) fun t =>
        t.pc = s.byteAt (addr + 1#16) ++ s.byteAt addr ∧ OnlyChanges s t [] [] []) ∧
    (∀ dp, CanRead s (s.dpCells dp) → encode (.jmpIndDp dp) = [0x3F, dp] ∧
      NextWith (exec (.jmpIndDp dp) s) fun t =>
        t.pc = s.byteAt (s.dpAddrHi dp) ++ s.byteAt (s.dpAddr dp) ∧ OnlyChanges s t [] [] [])

/-- CALL and PCALL (R201, R205). Stack page and push order are D4, D27 (log 19); that CALL [dp] reads its pointer
before it pushes is D14 (log 25); that it runs at offset FFh too is the model's choice (log 5; R36 and D2 refuse it).
-/
def Obligations.CallResult : Prop :=
  ∀ (s : State), CanWrite s s.callCells →
    (∀ i target bytes,
      (∃ addr, i = .callAbs addr ∧ target = addr ∧ bytes = [0x3B#8, loByte addr, hiByte addr]) ∨
      (∃ dp, i = .callIndDp dp ∧ CanRead s (s.dpCells dp) ∧
        target = s.byteAt (s.dpAddrHi dp) ++ s.byteAt (s.dpAddr dp) ∧ bytes = [0x5F#8, dp]) ∨
      (∃ u : Byte, i = .pcall u ∧ target = 0xFF#8 ++ u ∧ bytes = [0x4F#8, u]) →
      encode i = bytes ∧
      NextWith (exec i s) fun t =>
        t.pc = target ∧ t.sp = s.sp - 2#8 ∧
        t.byteAt (stackCell s.sp) = hiByte s.pc ∧ t.byteAt (stackCell (s.sp - 1#8)) = loByte s.pc ∧
        OnlyChanges s t [.sp] [] [stackCell s.sp, stackCell (s.sp - 1#8)])

/-- TCALL (R206, R94). Stack page and push order are D4, D27 (log 19). -/
def Obligations.TableCallResult : Prop :=
  ∀ (n : TableNo) (s : State), CanWrite s s.callCells →
    CanRead s (pairCells (BitVec.ofNat 16 (0xFFDE - 2 * n.toNat))) →
    encode (.tcall n) = [n ++ 0b1010#4] ∧
    NextWith (exec (.tcall n) s) fun t =>
      t.pc = s.byteAt (BitVec.ofNat 16 (0xFFDE - 2 * n.toNat + 1)) ++
        s.byteAt (BitVec.ofNat 16 (0xFFDE - 2 * n.toNat)) ∧
      t.sp = s.sp - 2#8 ∧
      t.byteAt (stackCell s.sp) = hiByte s.pc ∧ t.byteAt (stackCell (s.sp - 1#8)) = loByte s.pc ∧
      OnlyChanges s t [.sp] [] [stackCell s.sp, stackCell (s.sp - 1#8)]

/-- PUSH (R215, R16). The stack page and direction are decision D4 (log 19). -/
def Obligations.PushResult : Prop :=
  ∀ (s : State), Writable s (stackCell s.sp) →
    ∀ i op v, (i, op, v) ∈ [(Instr.pushA, 0x0E#8, s.a), (.pushX, 0x2E#8, s.x), (.pushY, 0x4E#8, s.y),
      (.pushPsw, 0x6E#8, s.psw)] →
    encode i = [op] ∧
    NextWith (exec i s) fun t =>
      t.byteAt (stackCell s.sp) = v ∧ t.sp.toNat = (s.sp.toNat + 255) % 256 ∧
      t.pc = s.pc ∧ OnlyChanges s t [.sp] [] [stackCell s.sp]

/-- POP (R214, R16). The stack page and direction are decision D4 (log 19); the mark after POP PSW is the model's own
(D29; log 15). -/
def Obligations.PopResult : Prop :=
  ∀ (s : State), Readable s (stackCell (s.sp + 1#8)) →
    (∀ i op r, (i, op, r) ∈ [(Instr.popA, 0x0D#8, Reg.a), (.popX, 0x2D#8, .x), (.popY, 0x4D#8, .y)] →
      encode i = [op] ∧
      NextWith (exec i s) fun t =>
        t.reg r = s.byteAt (stackCell (s.sp + 1#8)) ∧ t.sp.toNat = (s.sp.toNat + 1) % 256 ∧
        t.pc = s.pc ∧ OnlyChanges s t [r, .sp] [] []) ∧
    (encode .popPsw = [0x6D] ∧ NextWith (exec .popPsw s) fun t =>
      t.psw = s.byteAt (stackCell (s.sp + 1#8)) ∧ t.iShadow = pswFlag (s.byteAt (stackCell (s.sp + 1#8))) .i ∧
      t.sp.toNat = (s.sp.toNat + 1) % 256 ∧ t.pc = s.pc ∧ OnlyChanges s t [.sp] allFlags [])

/-- RET and RETI (R216, R217, R238). Stack discipline is D4, D27 (log 19); the mark after RETI is the model's own
(D29; log 15). -/
def Obligations.ReturnResult : Prop :=
  ∀ (s : State),
    (CanRead s [stackCell (s.sp + 1#8), stackCell (s.sp + 2#8)] → encode .ret = [0x6F] ∧
      NextWith (exec .ret s) fun t =>
        t.pc = s.byteAt (stackCell (s.sp + 2#8)) ++ s.byteAt (stackCell (s.sp + 1#8)) ∧ t.sp = s.sp + 2#8 ∧
        OnlyChanges s t [.sp] [] []) ∧
    (CanRead s [stackCell (s.sp + 1#8), stackCell (s.sp + 2#8), stackCell (s.sp + 3#8)] → encode .reti = [0x7F] ∧
      NextWith (exec .reti s) fun t =>
        t.psw = s.byteAt (stackCell (s.sp + 1#8)) ∧ t.iShadow = pswFlag (s.byteAt (stackCell (s.sp + 1#8))) .i ∧
        t.pc = s.byteAt (stackCell (s.sp + 3#8)) ++ s.byteAt (stackCell (s.sp + 2#8)) ∧ t.sp = s.sp + 3#8 ∧
        OnlyChanges s t [.sp] allFlags [])

/-- BRK (R210, R239); the sequence is decision D19 (log 20). -/
def Obligations.BrkEntry : Prop :=
  ∀ (s : State), CanWrite s s.entryCells → CanRead s (pairCells 0xFFDE) →
    encode .brk = [0x0F] ∧
    NextWith (exec .brk s) fun t =>
      t.byteAt (stackCell s.sp) = hiByte s.pc ∧ t.byteAt (stackCell (s.sp - 1#8)) = loByte s.pc ∧
      (∀ f, pswFlag (t.byteAt (stackCell (s.sp - 2#8))) f = if f = .b then true else s.flag f) ∧
      t.sp = s.sp - 3#8 ∧ t.flag .b = true ∧ t.flag .i = false ∧
      t.pc = s.byteAt 0xFFDF ++ s.byteAt 0xFFDE ∧
      OnlyChanges s t [.sp] [.b, .i]
        [stackCell s.sp, stackCell (s.sp - 1#8), stackCell (s.sp - 2#8)]

/-- EI, DI and STOP (R212, R211, R218); the mark after EI is the model's own (D29; log 15), STOP is D20 (log 16). -/
def Obligations.InterruptEnableAndStop : Prop :=
  ∀ s : State,
    (encode .ei = [0xE0] ∧ NextWith (exec .ei s) fun t =>
      t.flag .i = true ∧ t.iShadow = true ∧ t.pc = s.pc ∧ OnlyChanges s t [] [.i] []) ∧
    (encode .di = [0x60] ∧ NextWith (exec .di s) fun t =>
      t.flag .i = false ∧ t.requestingSource = none ∧ t.pc = s.pc ∧ OnlyChanges s t [] [.i] []) ∧
    (encode .stop = [0xEF] ∧ NextWith (exec .stop s) fun t => t = { s with stopped := true })

/-- Acceptance and entry (R234, R235, R237); the sequence is D18 (log 20), where a request lies D17 (log 14, 32), the
mark that it clears the model's own (log 15). -/
def Obligations.InterruptAccepted : Prop :=
  ∀ (s : State) (src : IrqSource), irqTableOk s.irqTable = true → src ∈ s.irqTable →
    CanWrite s s.entryCells → CanRead s (pairCells src.vector) →
    (s.resetRequest = false → s.stopped = false → s.iShadow = false → s.flag .i = true → s.eligible src = true →
      (∀ e ∈ s.irqTable, s.eligible e = true → e.priority ≤ src.priority) → step s = acceptIrq src s) ∧
    let pushed : Word → Byte := fun a =>
      if a = stackCell s.sp then hiByte s.pc else if a = stackCell (s.sp - 1#8) then loByte s.pc
      else if a = stackCell (s.sp - 2#8) then s.psw else s.byteAt a
    NextWith (acceptIrq src s) fun t =>
      (∀ (a : Word) (k : BitNo),
        bitOf (t.byteAt a) k = if src.request = .register a k then false else bitOf (pushed a) k) ∧
      t.pc = t.byteAt (src.vector + 1#16) ++ t.byteAt src.vector ∧ t.sp = s.sp - 3#8 ∧ t.flag .i = false ∧
      (∀ e ∈ t.irqTable, e.id = src.id → t.requested e = false) ∧
      t.irqTable = s.irqTable.map (fun e => if e = src then e.setRequest false else e) ∧
      (∀ r, r ≠ .sp → t.reg r = s.reg r) ∧ (∀ f, f ≠ .i → t.flag f = s.flag f) ∧ t.iShadow = false ∧
      t.stopped = s.stopped ∧ t.memMap = s.memMap ∧ t.resetRequest = s.resetRequest

/-- Pending requests (R233), R234 with I = 0, and the open boundary after I becomes 1 (R261, D29; log 15). The
environment's moves are log 27, where requests lie log 14. -/
def Obligations.InterruptHeld : Prop :=
  (∀ s : State, s.resetRequest = false → s.stopped = false →
      ((s.flag .i = false ∨ ∀ e ∈ s.irqTable, s.eligible e = false) → step s = runInstr s) ∧
      ∀ src ∈ s.irqTable, s.flag .i = true → s.iShadow = true → irqTableOk s.irqTable = true →
        s.eligible src = true → (∀ e ∈ s.irqTable, s.eligible e = true → e.priority ≤ src.priority) →
        step s = if Config.freeBit s.draws then acceptIrq src { s with draws := s.draws + 1 }
          else runInstr { s with draws := s.draws + 1 }) ∧
    (∀ s t : State, runInstr s = .next t →
      t.irqTable = s.irqTable ∧
      ∀ src ∈ s.irqTable,
        (∀ a k i rest, src.request = .register a k →
          decode [s.byteAt s.pc, s.byteAt (s.pc + 1#16), s.byteAt (s.pc + 2#16)] = .ok (i, rest) →
          Access.write a ∉ s.accesses i) →
        t.requested src = s.requested src) ∧
    ∀ (s : State) (m : EnvMove) (id : Nat), id ∈ s.irqPending → id ∈ (s.environment m).irqPending

/-- Reset (R250, R251, R237; vector: log 20). That memory keeps its bytes, and the sources their enables, is the
model's choice (log 17, 29). -/
def Obligations.ResetEvent : Prop :=
  ∀ s : State, s.resetRequest = true → CanRead s (pairCells 0xFFFE) →
    NextWith (step s) fun t =>
      t.pc = s.byteAt 0xFFFF ++ s.byteAt 0xFFFE ∧ t.psw = 0 ∧ t.stopped = false ∧ t.resetRequest = false ∧
      (∀ e ∈ t.irqTable, t.requested e = false) ∧ t.parameters = s.parameters ∧
      ∀ (a : Word) (k : BitNo), (∀ e ∈ s.irqTable, e.request ≠ .register a k) →
        bitOf (t.byteAt a) k = bitOf (s.byteAt a) k

/-- The reset state (R20, R250); decision D21 (log 20). -/
def Obligations.ResetStateValues : Prop :=
  (∀ f, State.reset.flag f = false) ∧ State.reset.pc = State.reset.byteAt 0xFFFF ++ State.reset.byteAt 0xFFFE ∧
    State.reset.stopped = false ∧ State.reset.irqPending = []

/-- STOPPED (R218, R247); the unchanging next state is the model's form of having no step (log 16). -/
def Obligations.StoppedUntilReset : Prop :=
  ∀ s : State, s.stopped = true → s.resetRequest = false → NextWith (step s) fun t => t = s

/-- Fetch, decode, execute (R13, R50, R248). The mark iShadow is the model's own (log 15); that only the bytes of the
instruction itself are read is an inference (log 31). -/
def Obligations.StepRunsDecoded : Prop :=
  ∀ (s : State) (i : Instr) (rest : List Byte), s.resetRequest = false → s.stopped = false →
    s.requestingSource = none → i.wellFormed = true →
    decode [s.byteAt s.pc, s.byteAt (s.pc + 1#16), s.byteAt (s.pc + 2#16)] = .ok (i, rest) →
    (∀ k, k + rest.length < 3 → Readable s (s.pc + BitVec.ofNat 16 k)) →
    step s = exec i { s with pc := s.pc + BitVec.ofNat 16 (3 - rest.length), iShadow := false }

/-- IllegalOpcode and ReservedOperandBits (R61, R62); decisions D5, D6, D7 (log 22, 23). -/
def Obligations.FetchStops : Prop :=
  ∀ s : State, s.resetRequest = false → s.stopped = false → s.requestingSource = none →
    (Readable s s.pc → s.byteAt s.pc = 0x00 → step s = .fault (.illegalOpcode 0x00)) ∧
    (CanRead s [s.pc, s.pc + 1#16] → s.byteAt s.pc ∈ [0x0B#8, 0x2B#8] →
      (∃ k, k < 5 ∧ (s.byteAt (s.pc + 1#16)).getLsbD k = true) →
      step s = .fault (.reservedOperandBits (s.byteAt s.pc) (s.byteAt (s.pc + 1#16)))) ∧
    (CanRead s [s.pc, s.pc + 1#16, s.pc + 2#16] → s.byteAt s.pc ∈ [0x4B#8, 0xEB#8] →
      (s.byteAt (s.pc + 2#16)).getLsbD 4 = true →
      step s = .fault (.reservedOperandBits (s.byteAt s.pc) (s.byteAt (s.pc + 2#16))))

/-- The encoder and the decoder agree on all 202 forms (R50 to R58). -/
def Obligations.DecodeEncode : Prop :=
  ∀ (i : Instr) (rest : List Byte), i.wellFormed = true → decode (encode i ++ rest) = .ok (i, rest)

/-- Every accepted byte sequence is the encoding of its instruction (R50 to R58, R62). -/
def Obligations.EncodeDecode : Prop :=
  ∀ (bs : List Byte) (i : Instr) (rest : List Byte), decode bs = .ok (i, rest) →
    i.wellFormed = true ∧ encode i ++ rest = bs

/-- The invariant of the machine: 65536 cells in one canonical form (R30), an admissible IRQ_TABLE over device state
(R232; log 14), kept by both agents of R248 (log 27). -/
def Obligations.StepKeepsInvariant : Prop :=
  ∀ s : State, s.inv = true →
    (∀ t, step s = .next t → t.inv = true) ∧ ∀ m : EnvMove, (s.environment m).inv = true

/-- The invariant at reset (R30, R232). -/
def Obligations.ResetInvariant : Prop :=
  State.reset.inv = true

/-- "The core raises no synchronous exception" (R230); the stops are those of MEMMAP (R33, D16; log 13). That there is
no stop for PairWrap is the model's choice (log 5), and none for UnwrittenRegister another (log 1). -/
def Obligations.OnlyMemMapStops : Prop :=
  ∀ (i : Instr) (s : State),
    (∀ f, exec i s = .fault f → ∃ a, f = .memMap a ∧ (s.kindAt a = .rom ∨ s.kindAt a = .hole)) ∧
    ∀ r, exec i s ≠ .refused r

/-- "Every instruction may be executed at any time" (R245), where MEMMAP forbids nothing (R33, D16; log 13, 32). That
offset FFh of a direct-page pair completes is the model's choice (log 5), and so is that a register nothing has
written reads as a value (log 1). -/
def Obligations.EveryInstructionCompletes : Prop :=
  ∀ (i : Instr) (s : State), AllWritable s → NextWith (exec i s) fun _ => True

/-- Effective addresses (R36, R72, R74 to R79, R82, R83); wraps are D1 (log 21), the stack page D4 (log 19). That
offset FFh runs, under one of the two readings of PAIR_WRAP (R36, D2), is the model's choice (log 5). -/
def Obligations.EffectiveAddresses : Prop :=
  ((∀ s : State, s.dpAddrHi 0xFF = s.dpAddr 0x00) ∨ ∀ s : State, s.dpAddrHi 0xFF = s.dpAddr 0xFF + 1#16) ∧
    ∀ s : State,
    let page : Nat := if s.flag .g then 256 else 0
    let pointer : Byte → Nat := fun off =>
      (s.byteAt (s.dpAddr off)).toNat + 256 * (s.byteAt (s.dpAddrHi off)).toNat
    (∀ off, (s.dpAddr off).toNat = page + off.toNat) ∧
    (∀ off, off ≠ 0xFF → (s.dpAddrHi off).toNat = page + off.toNat + 1) ∧
    (∀ d, ((Mode.dp d).ea s).toNat = page + d.toNat) ∧
    (∀ d, ((Mode.dpX d).ea s).toNat = page + (d.toNat + s.x.toNat) % 256) ∧
    (∀ d, ((Mode.dpY d).ea s).toNat = page + (d.toNat + s.y.toNat) % 256) ∧
    ((Mode.indX).ea s).toNat = page + s.x.toNat ∧
    (∀ w, ((Mode.abs w).ea s).toNat = w.toNat) ∧
    (∀ w, ((Mode.absY w).ea s).toNat = (w.toNat + s.y.toNat) % 65536) ∧
    (∀ d, ((Mode.indDpX d).ea s).toNat = pointer (BitVec.ofNat 8 (d.toNat + s.x.toNat))) ∧
    (∀ d, ((Mode.indDpY d).ea s).toNat = (pointer d + s.y.toNat) % 65536) ∧
    (∀ v, (stackCell v).toNat = 256 + v.toNat)

/-- The manual's own example encodings (95_test_vectors.md Part 1, S1 to S23). -/
def Obligations.SourcedEncodings : Prop :=
  ∀ bs i, (bs, i) ∈ [([0x04#8, 0x35#8], Instr.adcImm 0x35), ([0xE4#8, 0x55#8, 0x35#8], .ldm 0x55 0x35),
      ([0x05#8, 0x35#8], .adcDp 0x35), ([0x89#8, 0x35#8], .incDp 0x35), ([0x07#8, 0x35#8, 0xD0#8], .adcAbs 0xD035),
      ([0x98#8, 0x35#8, 0x01#8], .incAbs 0x0135), ([0x06#8, 0x45#8], .adcDpX 0x45),
      ([0x15#8, 0x35#8, 0xD0#8], .adcAbsY 0xD035), ([0x14#8], .adcIndX), ([0xDB#8], .ldaIndXInc),
      ([0x3F#8, 0x35#8], .jmpIndDp 0x35), ([0x16#8, 0x25#8], .adcIndDpX 0x25), ([0x17#8, 0x25#8], .adcIndDpY 0x25),
      ([0x1F#8, 0x25#8, 0xC0#8], .jmpIndAbs 0xC025), ([0x50#8, 0x30#8], .bcc 0x30), ([0xF2#8, 0x30#8], .bbcA 7 0x30),
      ([0x33#8, 0x35#8, 0x30#8], .bbcDp 1 0x35 0x30), ([0x0B#8, 0xC0#8], .seta1 6), ([0xC1#8, 0x35#8], .set1 6 0x35),
      ([0x8B#8, 0x35#8, 0x51#8], .and1b 0x0135 2), ([0x1D#8, 0x35#8], .addw 0x35), ([0x4F#8, 0x35#8], .pcall 0x35),
      ([0x4A#8], .tcall 4)] →
    decode bs = .ok (i, [])

/-- MEMMAP (R33, D16; log 13, a device register being a cell: log 32) over every access of every instruction (order:
D14, log 25), the fetch (log 31), an interrupt entry and reset. That offset FFh of a direct-page pair is no stop is
the model's choice (log 5). -/
def Obligations.MemMapAccess : Prop :=
  ∀ s : State,
    (∀ i, match s.firstForbidden (s.accesses i) with
      | some a => exec i s = .fault (.memMap a)
      | none => NextWith (exec i s) fun _ => True) ∧
    (s.resetRequest = false → s.stopped = false → s.requestingSource = none →
      let cells : List Word := match formOf (s.byteAt s.pc) with
        | some (.two _) => [s.pc, s.pc + 1#16]
        | some (.three _) => [s.pc, s.pc + 1#16, s.pc + 2#16]
        | some (.one _) | none => [s.pc]
      ∀ a, s.firstForbidden (readsOf cells) = some a → step s = .fault (.memMap a)) ∧
    (∀ src, match s.firstForbidden (s.entering src.vector) with
      | some a => acceptIrq src s = .fault (.memMap a)
      | none => NextWith (acceptIrq src s) fun _ => True) ∧
    (s.resetRequest = true → match s.firstForbidden (readsOf (pairCells 0xFFFE)) with
      | some a => step s = .fault (.memMap a)
      | none => NextWith (step s) fun _ => True)

/-- The table of R15 and the writers of R10, R11, R13, R16, R18, over all instructions. The flags that the spec leaves
open are drawn: N and Z after MUL (log 6), DIV's (log 7), C after INC A (log 8), CBNE's and DBNE's (log 9), N and Z
after TXSP (log 10); the boundary mark is the model's own (log 15). -/
def Obligations.WritersOfState : Prop :=
  ∀ (i : Instr) (s t : State), exec i s = .next t →
    (∀ f, f ∉ flagsWritten i → t.flag f = s.flag f) ∧ (∀ r, r ∉ regsWritten i → t.reg r = s.reg r) ∧
    (isControlTransfer i = false → t.pc = s.pc) ∧ (writesMemory i = false → t.mem = s.mem) ∧
    (∀ a, Access.write a ∉ s.accesses i → t.byteAt a = s.byteAt a) ∧
    (i ≠ .stop → t.stopped = s.stopped) ∧ t.memMap = s.memMap ∧ t.irqTable = s.irqTable ∧
    t.resetRequest = s.resetRequest ∧ (i ∉ [.ei, .popPsw, .reti] → t.iShadow = s.iShadow)

/-- "MEMMAP, IRQ_TABLE and the other parameters of 00_scope.md rule R7 are configuration" (R248), carried in State
(log 13, 14). That a reset keeps each source's enable is the model's choice (log 29); the environment's moves are log
27. -/
def Obligations.StepKeepsParameters : Prop :=
  ∀ s : State,
    (∀ t, step s = .next t → t.parameters = s.parameters) ∧
    ∀ m : EnvMove, (s.environment m).memMap = s.memMap ∧
      (s.environment m).irqTable.map (fun e => (e.id, e.vector, e.priority, e.enable.place, e.request.place)) =
        s.irqTable.map (fun e => (e.id, e.vector, e.priority, e.enable.place, e.request.place))

end SliceStatements
end

