-- ==== Sys2Proof/Laws/Memory.lean ====
section
/-! SUPPORT. The laws of memory: a read after a write, and the canonical form every write keeps. -/

namespace Sys2Proof.Machine

@[simp] theorem memRead_nil (a : Nat) : memRead [] a = Config.unlistedByte := rfl

theorem memRead_cons (k : Nat) (v : Byte) (m : Memory) (a : Nat) :
    memRead ((k, v) :: m) a = if k = a then v else memRead m a := rfl

/-- Erasing a cell leaves every other one. -/
theorem memRead_memErase_other (m : Memory) {a b : Nat} (h : a ≠ b) : memRead (memErase m a) b = memRead m b := by
  induction m with
  | nil => rfl
  | cons c m ih =>
    obtain ⟨k, v⟩ := c
    by_cases hk : k = a
    · subst hk
      simpa [memErase, memRead_cons, h] using ih
    · have he : memErase ((k, v) :: m) a = (k, v) :: memErase m a := by simp [memErase, hk]
      rw [he, memRead_cons, memRead_cons, ih]

/-- An erased cell is not listed. -/
theorem memRead_memErase_same (m : Memory) (a : Nat) : memRead (memErase m a) a = Config.unlistedByte := by
  induction m with
  | nil => rfl
  | cons c m ih =>
    obtain ⟨k, v⟩ := c
    by_cases hk : k = a <;> simpa [memErase, memRead_cons, hk] using ih

/-- An inserted cell is read where no cell of that address stood before. -/
theorem memRead_memInsert_same (m : Memory) (a : Nat) (v : Byte) (h : ∀ c ∈ m, c.1 ≠ a) :
    memRead (memInsert m a v) a = v := by
  induction m with
  | nil => simp [memInsert, memRead_cons]
  | cons c m ih =>
    obtain ⟨k, w⟩ := c
    have hk : k ≠ a := h (k, w) (by simp)
    have hm : ∀ c ∈ m, c.1 ≠ a := fun c hc => h c (by simp [hc])
    by_cases hlt : a < k
    · simp [memInsert, hlt, memRead_cons]
    · simpa [memInsert, hlt, memRead_cons, hk] using ih hm

/-- Inserting a cell leaves every other one. -/
theorem memRead_memInsert_other (m : Memory) {a b : Nat} (v : Byte) (h : a ≠ b) :
    memRead (memInsert m a v) b = memRead m b := by
  induction m with
  | nil => simp [memInsert, memRead_cons, h]
  | cons c m ih =>
    obtain ⟨k, w⟩ := c
    by_cases hlt : a < k
    · simp [memInsert, hlt, memRead_cons, h]
    · simp [memInsert, hlt, memRead_cons, ih]

theorem ne_of_mem_memErase {m : Memory} {a : Nat} {c : Host.Cell} (h : c ∈ memErase m a) : c.1 ≠ a := by
  simpa using (List.mem_filter.mp h).2

/-- A read after a write to the same address gives the byte written (R41). -/
@[simp] theorem memRead_memWrite_same (m : Memory) (a : Nat) (v : Byte) : memRead (memWrite m a v) a = v := by
  unfold memWrite
  split
  · rename_i h; rw [memRead_memErase_same, h]
  · exact memRead_memInsert_same _ _ _ fun c hc => ne_of_mem_memErase hc

/-- A write leaves every other address alone (R41). -/
theorem memRead_memWrite_other (m : Memory) {a b : Nat} (v : Byte) (h : a ≠ b) :
    memRead (memWrite m a v) b = memRead m b := by
  unfold memWrite
  split
  · exact memRead_memErase_other m h
  · rw [memRead_memInsert_other _ _ h, memRead_memErase_other m h]

/-- What the canonical form says, as a proposition. -/
theorem Memory.wf_iff (m : Memory) :
    m.wf = true ↔ m.Pairwise (fun c d => c.1 < d.1) ∧ ∀ c ∈ m, c.1 < 0x10000 ∧ c.2 ≠ Config.unlistedByte := by
  simp [Memory.wf, List.all_eq_true]

theorem mem_memInsert {m : Memory} {a : Nat} {v : Byte} {c : Host.Cell} (h : c ∈ memInsert m a v) :
    c = (a, v) ∨ c ∈ m := by
  induction m with
  | nil => simpa [memInsert] using h
  | cons d m ih =>
    obtain ⟨k, w⟩ := d
    by_cases hlt : a < k
    · simpa [memInsert, hlt] using h
    · simp only [memInsert, hlt, if_false, List.mem_cons] at h ⊢
      rcases h with h | h
      · exact .inr (.inl h)
      · exact (ih h).imp_right .inr

theorem pairwise_memInsert {m : Memory} {a : Nat} {v : Byte} (hm : m.Pairwise fun c d => c.1 < d.1)
    (hne : ∀ c ∈ m, c.1 ≠ a) : (memInsert m a v).Pairwise fun c d => c.1 < d.1 := by
  induction m with
  | nil => simp [memInsert]
  | cons d m ih =>
    obtain ⟨k, w⟩ := d
    obtain ⟨hd, hm'⟩ := List.pairwise_cons.mp hm
    have hk : k ≠ a := hne (k, w) (by simp)
    by_cases hlt : a < k
    · simp only [memInsert, hlt, if_true]
      refine List.pairwise_cons.mpr ⟨fun c hc => ?_, hm⟩
      rcases List.mem_cons.mp hc with rfl | hc
      · exact hlt
      · exact lt_trans hlt (hd c hc)
    · simp only [memInsert, hlt, if_false]
      refine List.pairwise_cons.mpr ⟨fun c hc => ?_, ih hm' fun c hc => hne c (by simp [hc])⟩
      rcases mem_memInsert hc with rfl | hc
      · have := Nat.lt_of_le_of_ne (Nat.le_of_not_lt hlt) hk
        exact this
      · exact hd c hc

/-- Erasing keeps the canonical form. -/
theorem wf_memErase {m : Memory} (h : m.wf = true) (a : Nat) : (memErase m a).wf = true := by
  rw [Memory.wf_iff] at h ⊢
  exact ⟨h.1.filter _, fun c hc => h.2 c (List.mem_filter.mp hc).1⟩

/-- A write to an address of the space keeps the canonical form. -/
theorem wf_memWrite {m : Memory} (h : m.wf = true) {a : Nat} (ha : a < 0x10000) (v : Byte) :
    (memWrite m a v).wf = true := by
  unfold memWrite
  split
  · exact wf_memErase h a
  · rename_i hv
    have he := (Memory.wf_iff _).mp (wf_memErase h a)
    refine (Memory.wf_iff _).mpr ⟨pairwise_memInsert he.1 fun c hc => ne_of_mem_memErase hc, fun c hc => ?_⟩
    rcases mem_memInsert hc with rfl | hc
    · exact ⟨ha, hv⟩
    · exact he.2 c hc

/-- Memory right after reset is in canonical form. -/
theorem wf_reset : Memory.wf State.reset.mem = true := by decide

end Sys2Proof.Machine
end

