-- ==== Sys2Proof/Laws/State.lean ====
section
/-! SUPPORT. One lemma for each field and each update of State, true by unfolding, so that no proof unfolds a
record update; and the flags, MEMMAP and memory through every update. -/

namespace Sys2Proof.Machine

/-! ### storeByte -/

@[simp] theorem State.storeByte_a (s : State) (a : Word) (v : Byte) : (s.storeByte a v).a = s.a := rfl
@[simp] theorem State.storeByte_x (s : State) (a : Word) (v : Byte) : (s.storeByte a v).x = s.x := rfl
@[simp] theorem State.storeByte_y (s : State) (a : Word) (v : Byte) : (s.storeByte a v).y = s.y := rfl
@[simp] theorem State.storeByte_sp (s : State) (a : Word) (v : Byte) : (s.storeByte a v).sp = s.sp := rfl
@[simp] theorem State.storeByte_psw (s : State) (a : Word) (v : Byte) : (s.storeByte a v).psw = s.psw := rfl
@[simp] theorem State.storeByte_pc (s : State) (a : Word) (v : Byte) : (s.storeByte a v).pc = s.pc := rfl
@[simp] theorem State.storeByte_stopped (s : State) (a : Word) (v : Byte) : (s.storeByte a v).stopped = s.stopped := rfl
@[simp] theorem State.storeByte_memMap (s : State) (a : Word) (v : Byte) : (s.storeByte a v).memMap = s.memMap := rfl
@[simp] theorem State.storeByte_irqTable (s : State) (a : Word) (v : Byte) : (s.storeByte a v).irqTable = s.irqTable := rfl
@[simp] theorem State.storeByte_resetRequest (s : State) (a : Word) (v : Byte) : (s.storeByte a v).resetRequest = s.resetRequest := rfl
@[simp] theorem State.storeByte_iShadow (s : State) (a : Word) (v : Byte) : (s.storeByte a v).iShadow = s.iShadow := rfl
@[simp] theorem State.storeByte_draws (s : State) (a : Word) (v : Byte) : (s.storeByte a v).draws = s.draws := rfl

/-! ### setFlag -/

@[simp] theorem State.setFlag_a (s : State) (f : Flag) (v : Bool) : (s.setFlag f v).a = s.a := rfl
@[simp] theorem State.setFlag_x (s : State) (f : Flag) (v : Bool) : (s.setFlag f v).x = s.x := rfl
@[simp] theorem State.setFlag_y (s : State) (f : Flag) (v : Bool) : (s.setFlag f v).y = s.y := rfl
@[simp] theorem State.setFlag_sp (s : State) (f : Flag) (v : Bool) : (s.setFlag f v).sp = s.sp := rfl
@[simp] theorem State.setFlag_pc (s : State) (f : Flag) (v : Bool) : (s.setFlag f v).pc = s.pc := rfl
@[simp] theorem State.setFlag_mem (s : State) (f : Flag) (v : Bool) : (s.setFlag f v).mem = s.mem := rfl
@[simp] theorem State.setFlag_stopped (s : State) (f : Flag) (v : Bool) : (s.setFlag f v).stopped = s.stopped := rfl
@[simp] theorem State.setFlag_memMap (s : State) (f : Flag) (v : Bool) : (s.setFlag f v).memMap = s.memMap := rfl
@[simp] theorem State.setFlag_irqTable (s : State) (f : Flag) (v : Bool) : (s.setFlag f v).irqTable = s.irqTable := rfl
@[simp] theorem State.setFlag_resetRequest (s : State) (f : Flag) (v : Bool) : (s.setFlag f v).resetRequest = s.resetRequest := rfl
@[simp] theorem State.setFlag_iShadow (s : State) (f : Flag) (v : Bool) : (s.setFlag f v).iShadow = s.iShadow := rfl
@[simp] theorem State.setFlag_draws (s : State) (f : Flag) (v : Bool) : (s.setFlag f v).draws = s.draws := rfl

/-! ### setNZ8 -/

@[simp] theorem State.setNZ8_a (s : State) (v : Byte) : (s.setNZ8 v).a = s.a := rfl
@[simp] theorem State.setNZ8_x (s : State) (v : Byte) : (s.setNZ8 v).x = s.x := rfl
@[simp] theorem State.setNZ8_y (s : State) (v : Byte) : (s.setNZ8 v).y = s.y := rfl
@[simp] theorem State.setNZ8_sp (s : State) (v : Byte) : (s.setNZ8 v).sp = s.sp := rfl
@[simp] theorem State.setNZ8_pc (s : State) (v : Byte) : (s.setNZ8 v).pc = s.pc := rfl
@[simp] theorem State.setNZ8_mem (s : State) (v : Byte) : (s.setNZ8 v).mem = s.mem := rfl
@[simp] theorem State.setNZ8_stopped (s : State) (v : Byte) : (s.setNZ8 v).stopped = s.stopped := rfl
@[simp] theorem State.setNZ8_memMap (s : State) (v : Byte) : (s.setNZ8 v).memMap = s.memMap := rfl
@[simp] theorem State.setNZ8_irqTable (s : State) (v : Byte) : (s.setNZ8 v).irqTable = s.irqTable := rfl
@[simp] theorem State.setNZ8_resetRequest (s : State) (v : Byte) : (s.setNZ8 v).resetRequest = s.resetRequest := rfl
@[simp] theorem State.setNZ8_iShadow (s : State) (v : Byte) : (s.setNZ8 v).iShadow = s.iShadow := rfl
@[simp] theorem State.setNZ8_draws (s : State) (v : Byte) : (s.setNZ8 v).draws = s.draws := rfl

/-! ### setNZ16 -/

@[simp] theorem State.setNZ16_a (s : State) (v : Word) : (s.setNZ16 v).a = s.a := rfl
@[simp] theorem State.setNZ16_x (s : State) (v : Word) : (s.setNZ16 v).x = s.x := rfl
@[simp] theorem State.setNZ16_y (s : State) (v : Word) : (s.setNZ16 v).y = s.y := rfl
@[simp] theorem State.setNZ16_sp (s : State) (v : Word) : (s.setNZ16 v).sp = s.sp := rfl
@[simp] theorem State.setNZ16_pc (s : State) (v : Word) : (s.setNZ16 v).pc = s.pc := rfl
@[simp] theorem State.setNZ16_mem (s : State) (v : Word) : (s.setNZ16 v).mem = s.mem := rfl
@[simp] theorem State.setNZ16_stopped (s : State) (v : Word) : (s.setNZ16 v).stopped = s.stopped := rfl
@[simp] theorem State.setNZ16_memMap (s : State) (v : Word) : (s.setNZ16 v).memMap = s.memMap := rfl
@[simp] theorem State.setNZ16_irqTable (s : State) (v : Word) : (s.setNZ16 v).irqTable = s.irqTable := rfl
@[simp] theorem State.setNZ16_resetRequest (s : State) (v : Word) : (s.setNZ16 v).resetRequest = s.resetRequest := rfl
@[simp] theorem State.setNZ16_iShadow (s : State) (v : Word) : (s.setNZ16 v).iShadow = s.iShadow := rfl
@[simp] theorem State.setNZ16_draws (s : State) (v : Word) : (s.setNZ16 v).draws = s.draws := rfl

/-! ### setYA -/

@[simp] theorem State.setYA_x (s : State) (w : Word) : (s.setYA w).x = s.x := rfl
@[simp] theorem State.setYA_sp (s : State) (w : Word) : (s.setYA w).sp = s.sp := rfl
@[simp] theorem State.setYA_psw (s : State) (w : Word) : (s.setYA w).psw = s.psw := rfl
@[simp] theorem State.setYA_pc (s : State) (w : Word) : (s.setYA w).pc = s.pc := rfl
@[simp] theorem State.setYA_mem (s : State) (w : Word) : (s.setYA w).mem = s.mem := rfl
@[simp] theorem State.setYA_stopped (s : State) (w : Word) : (s.setYA w).stopped = s.stopped := rfl
@[simp] theorem State.setYA_memMap (s : State) (w : Word) : (s.setYA w).memMap = s.memMap := rfl
@[simp] theorem State.setYA_irqTable (s : State) (w : Word) : (s.setYA w).irqTable = s.irqTable := rfl
@[simp] theorem State.setYA_resetRequest (s : State) (w : Word) : (s.setYA w).resetRequest = s.resetRequest := rfl
@[simp] theorem State.setYA_iShadow (s : State) (w : Word) : (s.setYA w).iShadow = s.iShadow := rfl
@[simp] theorem State.setYA_draws (s : State) (w : Word) : (s.setYA w).draws = s.draws := rfl

/-! ### drawFlag -/

@[simp] theorem State.drawFlag_a (s : State) (f : Flag) : (s.drawFlag f).a = s.a := rfl
@[simp] theorem State.drawFlag_x (s : State) (f : Flag) : (s.drawFlag f).x = s.x := rfl
@[simp] theorem State.drawFlag_y (s : State) (f : Flag) : (s.drawFlag f).y = s.y := rfl
@[simp] theorem State.drawFlag_sp (s : State) (f : Flag) : (s.drawFlag f).sp = s.sp := rfl
@[simp] theorem State.drawFlag_pc (s : State) (f : Flag) : (s.drawFlag f).pc = s.pc := rfl
@[simp] theorem State.drawFlag_mem (s : State) (f : Flag) : (s.drawFlag f).mem = s.mem := rfl
@[simp] theorem State.drawFlag_stopped (s : State) (f : Flag) : (s.drawFlag f).stopped = s.stopped := rfl
@[simp] theorem State.drawFlag_memMap (s : State) (f : Flag) : (s.drawFlag f).memMap = s.memMap := rfl
@[simp] theorem State.drawFlag_irqTable (s : State) (f : Flag) : (s.drawFlag f).irqTable = s.irqTable := rfl
@[simp] theorem State.drawFlag_resetRequest (s : State) (f : Flag) : (s.drawFlag f).resetRequest = s.resetRequest := rfl
@[simp] theorem State.drawFlag_iShadow (s : State) (f : Flag) : (s.drawFlag f).iShadow = s.iShadow := rfl

/-! ### branch -/

@[simp] theorem State.branch_a (s : State) (rel : Byte) : (s.branch rel).a = s.a := rfl
@[simp] theorem State.branch_x (s : State) (rel : Byte) : (s.branch rel).x = s.x := rfl
@[simp] theorem State.branch_y (s : State) (rel : Byte) : (s.branch rel).y = s.y := rfl
@[simp] theorem State.branch_sp (s : State) (rel : Byte) : (s.branch rel).sp = s.sp := rfl
@[simp] theorem State.branch_psw (s : State) (rel : Byte) : (s.branch rel).psw = s.psw := rfl
@[simp] theorem State.branch_mem (s : State) (rel : Byte) : (s.branch rel).mem = s.mem := rfl
@[simp] theorem State.branch_stopped (s : State) (rel : Byte) : (s.branch rel).stopped = s.stopped := rfl
@[simp] theorem State.branch_memMap (s : State) (rel : Byte) : (s.branch rel).memMap = s.memMap := rfl
@[simp] theorem State.branch_irqTable (s : State) (rel : Byte) : (s.branch rel).irqTable = s.irqTable := rfl
@[simp] theorem State.branch_resetRequest (s : State) (rel : Byte) : (s.branch rel).resetRequest = s.resetRequest := rfl
@[simp] theorem State.branch_iShadow (s : State) (rel : Byte) : (s.branch rel).iShadow = s.iShadow := rfl
@[simp] theorem State.branch_draws (s : State) (rel : Byte) : (s.branch rel).draws = s.draws := rfl

/-! ### drawBit, drawByte -/

@[simp] theorem State.drawBit_a (s : State) : s.drawBit.2.a = s.a := rfl
@[simp] theorem State.drawBit_x (s : State) : s.drawBit.2.x = s.x := rfl
@[simp] theorem State.drawBit_y (s : State) : s.drawBit.2.y = s.y := rfl
@[simp] theorem State.drawBit_sp (s : State) : s.drawBit.2.sp = s.sp := rfl
@[simp] theorem State.drawBit_psw (s : State) : s.drawBit.2.psw = s.psw := rfl
@[simp] theorem State.drawBit_pc (s : State) : s.drawBit.2.pc = s.pc := rfl
@[simp] theorem State.drawBit_mem (s : State) : s.drawBit.2.mem = s.mem := rfl
@[simp] theorem State.drawBit_stopped (s : State) : s.drawBit.2.stopped = s.stopped := rfl
@[simp] theorem State.drawBit_memMap (s : State) : s.drawBit.2.memMap = s.memMap := rfl
@[simp] theorem State.drawBit_irqTable (s : State) : s.drawBit.2.irqTable = s.irqTable := rfl
@[simp] theorem State.drawBit_resetRequest (s : State) : s.drawBit.2.resetRequest = s.resetRequest := rfl
@[simp] theorem State.drawBit_iShadow (s : State) : s.drawBit.2.iShadow = s.iShadow := rfl
@[simp] theorem State.drawBit_draws (s : State) : s.drawBit.2.draws = s.draws + 1 := rfl
@[simp] theorem State.drawByte_a (s : State) : s.drawByte.2.a = s.a := rfl
@[simp] theorem State.drawByte_x (s : State) : s.drawByte.2.x = s.x := rfl
@[simp] theorem State.drawByte_y (s : State) : s.drawByte.2.y = s.y := rfl
@[simp] theorem State.drawByte_sp (s : State) : s.drawByte.2.sp = s.sp := rfl
@[simp] theorem State.drawByte_psw (s : State) : s.drawByte.2.psw = s.psw := rfl
@[simp] theorem State.drawByte_pc (s : State) : s.drawByte.2.pc = s.pc := rfl
@[simp] theorem State.drawByte_mem (s : State) : s.drawByte.2.mem = s.mem := rfl
@[simp] theorem State.drawByte_stopped (s : State) : s.drawByte.2.stopped = s.stopped := rfl
@[simp] theorem State.drawByte_memMap (s : State) : s.drawByte.2.memMap = s.memMap := rfl
@[simp] theorem State.drawByte_irqTable (s : State) : s.drawByte.2.irqTable = s.irqTable := rfl
@[simp] theorem State.drawByte_resetRequest (s : State) : s.drawByte.2.resetRequest = s.resetRequest := rfl
@[simp] theorem State.drawByte_iShadow (s : State) : s.drawByte.2.iShadow = s.iShadow := rfl
@[simp] theorem State.drawByte_draws (s : State) : s.drawByte.2.draws = s.draws + 1 := rfl

/-! ### branchIf -/

@[simp] theorem State.branchIf_a (s : State) (c : Bool) (rel : Byte) : (s.branchIf c rel).a = s.a := by
  cases c <;> rfl
@[simp] theorem State.branchIf_x (s : State) (c : Bool) (rel : Byte) : (s.branchIf c rel).x = s.x := by
  cases c <;> rfl
@[simp] theorem State.branchIf_y (s : State) (c : Bool) (rel : Byte) : (s.branchIf c rel).y = s.y := by
  cases c <;> rfl
@[simp] theorem State.branchIf_sp (s : State) (c : Bool) (rel : Byte) : (s.branchIf c rel).sp = s.sp := by
  cases c <;> rfl
@[simp] theorem State.branchIf_psw (s : State) (c : Bool) (rel : Byte) : (s.branchIf c rel).psw = s.psw := by
  cases c <;> rfl
@[simp] theorem State.branchIf_mem (s : State) (c : Bool) (rel : Byte) : (s.branchIf c rel).mem = s.mem := by
  cases c <;> rfl
@[simp] theorem State.branchIf_stopped (s : State) (c : Bool) (rel : Byte) : (s.branchIf c rel).stopped = s.stopped := by
  cases c <;> rfl
@[simp] theorem State.branchIf_memMap (s : State) (c : Bool) (rel : Byte) : (s.branchIf c rel).memMap = s.memMap := by
  cases c <;> rfl
@[simp] theorem State.branchIf_irqTable (s : State) (c : Bool) (rel : Byte) : (s.branchIf c rel).irqTable = s.irqTable := by
  cases c <;> rfl
@[simp] theorem State.branchIf_resetRequest (s : State) (c : Bool) (rel : Byte) : (s.branchIf c rel).resetRequest = s.resetRequest := by
  cases c <;> rfl
@[simp] theorem State.branchIf_iShadow (s : State) (c : Bool) (rel : Byte) : (s.branchIf c rel).iShadow = s.iShadow := by
  cases c <;> rfl
@[simp] theorem State.branchIf_draws (s : State) (c : Bool) (rel : Byte) : (s.branchIf c rel).draws = s.draws := by
  cases c <;> rfl

/-! ### YA (R12) -/

theorem mkWord_toNat (h l : Byte) : (mkWord h l).toNat = 256 * h.toNat + l.toNat := by
  have hl : l.toNat < 2 ^ 8 := l.isLt
  have e : (mkWord h l).toNat = h.toNat <<< 8 ||| l.toNat := BitVec.toNat_append h l
  rw [e, ← Nat.shiftLeft_add_eq_or_of_lt hl, Nat.shiftLeft_eq]
  omega

theorem loByte_toNat (w : Word) : (loByte w).toNat = w.toNat % 256 := by
  simp [loByte, BitVec.extractLsb'_toNat]

theorem hiByte_toNat (w : Word) : (hiByte w).toNat = w.toNat / 256 := by
  have := w.isLt
  simp only [hiByte, BitVec.extractLsb'_toNat, Nat.shiftRight_eq_div_pow]
  omega

@[simp] theorem loByte_mkWord (h l : Byte) : loByte (mkWord h l) = l := by
  have := l.isLt
  apply BitVec.eq_of_toNat_eq
  rw [loByte_toNat, mkWord_toNat]
  omega

@[simp] theorem hiByte_mkWord (h l : Byte) : hiByte (mkWord h l) = h := by
  have := l.isLt
  apply BitVec.eq_of_toNat_eq
  rw [hiByte_toNat, mkWord_toNat]
  omega

@[simp] theorem mkWord_hiByte_loByte (w : Word) : mkWord (hiByte w) (loByte w) = w := by
  apply BitVec.eq_of_toNat_eq
  rw [mkWord_toNat, hiByte_toNat, loByte_toNat]
  omega

@[simp] theorem State.ya_setYA (s : State) (w : Word) : (s.setYA w).ya = w := mkWord_hiByte_loByte w

@[simp] theorem State.setYA_y (s : State) (w : Word) : (s.setYA w).y = hiByte w := rfl

@[simp] theorem State.setYA_a (s : State) (w : Word) : (s.setYA w).a = loByte w := rfl

/-! ### Flags (R14) -/

/-- Writing a flag of a PSW byte writes that bit and no other (R14). -/
theorem pswFlag_pswWith (p : Byte) (f k : Flag) (v : Bool) :
    pswFlag (pswWith p f v) k = if f = k then v else pswFlag p k := by
  cases f <;> cases k <;> cases v <;> simp [pswFlag, pswWith, flagPos]

/-- Writing a flag of the state writes that flag and no other. -/
theorem State.flag_setFlag (s : State) (f k : Flag) (v : Bool) :
    (s.setFlag f v).flag k = if f = k then v else s.flag k := pswFlag_pswWith s.psw f k v

@[simp] theorem State.flag_setFlag_same (s : State) (f : Flag) (v : Bool) : (s.setFlag f v).flag f = v := by
  simp [State.flag_setFlag]

/-- Two PSW bytes with the same eight flags are the same byte (R14: there are no other bits). -/
theorem psw_ext {p q : Byte} (h : ∀ f, pswFlag p f = pswFlag q f) : p = q := by
  have h0 := h .c; have h1 := h .z; have h2 := h .i; have h3 := h .h
  have h4 := h .b; have h5 := h .g; have h6 := h .v; have h7 := h .n
  simp only [pswFlag, flagPos] at *
  apply BitVec.eq_of_getLsbD_eq
  intro i hi
  match i, hi with
  | 0, _ => exact h0
  | 1, _ => exact h1
  | 2, _ => exact h2
  | 3, _ => exact h3
  | 4, _ => exact h4
  | 5, _ => exact h5
  | 6, _ => exact h6
  | 7, _ => exact h7

/-- `setNZ8` writes N and Z from the byte and no other flag (R9). -/
theorem State.flag_setNZ8 (s : State) (v : Byte) (k : Flag) :
    (s.setNZ8 v).flag k = match k with | .n => v.msb | .z => v == 0#8 | k => s.flag k := by
  cases k <;> simp [State.setNZ8, State.flag_setFlag]

/-- `setNZ16` writes N and Z from the word and no other flag (R9). -/
theorem State.flag_setNZ16 (s : State) (v : Word) (k : Flag) :
    (s.setNZ16 v).flag k = match k with | .n => v.msb | .z => v == 0#16 | k => s.flag k := by
  cases k <;> simp [State.setNZ16, State.flag_setFlag]

/-- A drawn flag is the one flag that changes. -/
theorem State.flag_drawFlag (s : State) (f k : Flag) :
    (s.drawFlag f).flag k = if f = k then Config.freeBit s.draws else s.flag k := by
  rw [State.drawFlag, State.flag_setFlag]
  rfl

@[simp] theorem State.flag_storeByte (s : State) (a : Word) (v : Byte) (f : Flag) :
    (s.storeByte a v).flag f = s.flag f := rfl

@[simp] theorem State.flag_setYA (s : State) (w : Word) (f : Flag) : (s.setYA w).flag f = s.flag f := rfl

@[simp] theorem State.flag_branch (s : State) (rel : Byte) (f : Flag) : (s.branch rel).flag f = s.flag f := rfl

@[simp] theorem State.flag_branchIf (s : State) (c : Bool) (rel : Byte) (f : Flag) :
    (s.branchIf c rel).flag f = s.flag f := by
  cases c <;> rfl

/-! ### Memory and MEMMAP through an update -/

/-- MEMMAP alone decides the kind of an address. -/
theorem State.kindAt_congr {s t : State} (h : t.memMap = s.memMap) (a : Word) : t.kindAt a = s.kindAt a := by
  simp [State.kindAt, h]

/-- Memory alone decides the byte at an address. -/
theorem State.byteAt_congr {s t : State} (h : t.mem = s.mem) (a : Word) : t.byteAt a = s.byteAt a := by
  simp [State.byteAt, h]

/-- A stored byte is read back, and every other address reads as before (R41). -/
theorem State.byteAt_storeByte (s : State) (a b : Word) (v : Byte) :
    (s.storeByte a v).byteAt b = if a = b then v else s.byteAt b := by
  by_cases h : a = b
  · subst h; simp [State.byteAt, State.storeByte]
  · have : a.toNat ≠ b.toNat := fun e => h (BitVec.eq_of_toNat_eq e)
    simp [State.byteAt, State.storeByte, h, memRead_memWrite_other _ _ this]

/-- Storing a byte keeps memory's canonical form. -/
theorem wf_storeByte {s : State} (h : s.mem.wf = true) (a : Word) (v : Byte) : (s.storeByte a v).mem.wf = true :=
  wf_memWrite h a.isLt v

@[simp] theorem State.kindAt_storeByte (s : State) (a : Word) (v : Byte) (p : Word) : (s.storeByte a v).kindAt p = s.kindAt p := rfl
@[simp] theorem State.kindAt_setFlag (s : State) (f : Flag) (v : Bool) (p : Word) : (s.setFlag f v).kindAt p = s.kindAt p := rfl
@[simp] theorem State.byteAt_setFlag (s : State) (f : Flag) (v : Bool) (p : Word) : (s.setFlag f v).byteAt p = s.byteAt p := rfl
@[simp] theorem State.kindAt_setNZ8 (s : State) (v : Byte) (p : Word) : (s.setNZ8 v).kindAt p = s.kindAt p := rfl
@[simp] theorem State.byteAt_setNZ8 (s : State) (v : Byte) (p : Word) : (s.setNZ8 v).byteAt p = s.byteAt p := rfl
@[simp] theorem State.kindAt_setNZ16 (s : State) (v : Word) (p : Word) : (s.setNZ16 v).kindAt p = s.kindAt p := rfl
@[simp] theorem State.byteAt_setNZ16 (s : State) (v : Word) (p : Word) : (s.setNZ16 v).byteAt p = s.byteAt p := rfl
@[simp] theorem State.kindAt_setYA (s : State) (w : Word) (p : Word) : (s.setYA w).kindAt p = s.kindAt p := rfl
@[simp] theorem State.byteAt_setYA (s : State) (w : Word) (p : Word) : (s.setYA w).byteAt p = s.byteAt p := rfl
@[simp] theorem State.kindAt_drawFlag (s : State) (f : Flag) (p : Word) : (s.drawFlag f).kindAt p = s.kindAt p := rfl
@[simp] theorem State.byteAt_drawFlag (s : State) (f : Flag) (p : Word) : (s.drawFlag f).byteAt p = s.byteAt p := rfl
@[simp] theorem State.kindAt_branch (s : State) (rel : Byte) (p : Word) : (s.branch rel).kindAt p = s.kindAt p := rfl
@[simp] theorem State.byteAt_branch (s : State) (rel : Byte) (p : Word) : (s.branch rel).byteAt p = s.byteAt p := rfl
@[simp] theorem State.kindAt_branchIf (s : State) (c : Bool) (rel : Byte) (p : Word) :
    (s.branchIf c rel).kindAt p = s.kindAt p := by
  cases c <;> rfl

@[simp] theorem State.byteAt_branchIf (s : State) (c : Bool) (rel : Byte) (p : Word) :
    (s.branchIf c rel).byteAt p = s.byteAt p := by
  cases c <;> rfl

/-! ### A state written out by an update of other fields -/

/-- The flags of a state depend on PSW alone. -/
@[simp] theorem State.flag_mk (a x y sp psw : Byte) (pc : Word) (mem : Memory) (stopped : Bool) (memMap : List Region)
    (irqTable : List IrqSource) (resetRequest iShadow : Bool) (draws : Nat) (f : Flag) :
    (State.mk a x y sp psw pc mem stopped memMap irqTable resetRequest iShadow draws).flag f = pswFlag psw f := rfl

@[simp] theorem pswFlag_psw (s : State) (f : Flag) : pswFlag s.psw f = s.flag f := rfl

/-- The bytes of a state depend on memory alone. -/
@[simp] theorem State.byteAt_mk (a x y sp psw : Byte) (pc : Word) (mem : Memory) (stopped : Bool) (memMap : List Region)
    (irqTable : List IrqSource) (resetRequest iShadow : Bool) (draws : Nat) (p : Word) :
    (State.mk a x y sp psw pc mem stopped memMap irqTable resetRequest iShadow draws).byteAt p =
      memRead mem p.toNat := rfl

@[simp] theorem memRead_mem (s : State) (p : Word) : memRead s.mem p.toNat = s.byteAt p := rfl

end Sys2Proof.Machine
end

