-- ==== Sys2Proof/Laws/Ops.lean ====
section
/-! SUPPORT. One law for each shared operation, in two directions: what it gives where MEMMAP allows its
accesses, and everything it can have done when it answered a next state. -/

namespace Sys2Proof.Machine

@[simp] theorem NextWith_next (t : State) (p : State → Prop) : NextWith (.next t) p ↔ p t := by
  simp [NextWith]

/-! ## Access -/

/-- What may be written may be read (R33). -/
theorem Writable.readable {s : State} {a : Word} (h : Writable s a) : Readable s a := by
  rcases h with h | h
  · exact .inl h
  · exact .inr (.inr h)

theorem AllWritable.readable {s : State} (h : AllWritable s) (a : Word) : Readable s a := (h a).readable

theorem AllWritable.canRead {s : State} (h : AllWritable s) (l : List Word) : CanRead s l := fun a _ => h.readable a

theorem AllWritable.canWrite {s : State} (h : AllWritable s) (l : List Word) : CanWrite s l := fun a _ => h a

/-- MEMMAP alone decides what may be accessed. -/
theorem Readable_congr {s t : State} (h : t.memMap = s.memMap) (a : Word) : Readable t a ↔ Readable s a := by
  simp [Readable, State.kindAt_congr h]

theorem Writable_congr {s t : State} (h : t.memMap = s.memMap) (a : Word) : Writable t a ↔ Writable s a := by
  simp [Writable, State.kindAt_congr h]

theorem AllWritable_congr {s t : State} (h : t.memMap = s.memMap) : AllWritable t ↔ AllWritable s := by
  simp [AllWritable, Writable_congr h]

@[simp] theorem CanRead_nil (s : State) : CanRead s [] := by simp [CanRead]

@[simp] theorem CanRead_cons (s : State) (a : Word) (l : List Word) :
    CanRead s (a :: l) ↔ Readable s a ∧ CanRead s l := by simp [CanRead]

@[simp] theorem CanWrite_nil (s : State) : CanWrite s [] := by simp [CanWrite]

@[simp] theorem CanWrite_cons (s : State) (a : Word) (l : List Word) :
    CanWrite s (a :: l) ↔ Writable s a ∧ CanWrite s l := by simp [CanWrite]

@[simp] theorem CanRead_append (s : State) (l m : List Word) : CanRead s (l ++ m) ↔ CanRead s l ∧ CanRead s m := by
  simp [CanRead, or_imp, forall_and]

/-! ## withByte, storing -/

/-- A read that MEMMAP allows. -/
theorem withByte_readable {s : State} {a : Word} (h : Readable s a) (k : Byte → Outcome) :
    withByte s a k = k (s.byteAt a) := by
  rcases h with h | h | h <;> simp [withByte, h]

/-- A write that MEMMAP allows. -/
theorem storing_writable {s : State} {a : Word} (h : Writable s a) (v : Byte) (k : State → Outcome) :
    storing s a v k = k (s.storeByte a v) := by
  rcases h with h | h <;> simp [storing, h]

/-- A read that MEMMAP forbids. -/
theorem withByte_hole {s : State} {a : Word} (h : s.kindAt a = .hole) (k : Byte → Outcome) :
    withByte s a k = .fault (.memMap a) := by
  simp [withByte, h]

/-- A write that MEMMAP forbids. -/
theorem storing_forbidden {s : State} {a : Word} (h : s.kindAt a = .rom ∨ s.kindAt a = .hole) (v : Byte)
    (k : State → Outcome) : storing s a v k = .fault (.memMap a) := by
  rcases h with h | h <;> simp [storing, h]

/-- MEMMAP allows a read or the cell is a hole. -/
theorem readable_or_hole (s : State) (a : Word) : Readable s a ∨ s.kindAt a = .hole := by
  unfold Readable
  cases s.kindAt a <;> simp

/-- MEMMAP allows a write or the cell is ROM or a hole. -/
theorem writable_or_forbidden (s : State) (a : Word) : Writable s a ∨ s.kindAt a = .rom ∨ s.kindAt a = .hole := by
  unfold Writable
  cases s.kindAt a <;> simp

/-- All that a read can give. -/
theorem withByte_cases (s : State) (a : Word) (k : Byte → Outcome) :
    Readable s a ∧ withByte s a k = k (s.byteAt a) ∨ s.kindAt a = .hole ∧ withByte s a k = .fault (.memMap a) :=
  (readable_or_hole s a).imp (fun h => ⟨h, withByte_readable h k⟩) fun h => ⟨h, withByte_hole h k⟩

/-- All that a write can give. -/
theorem storing_cases (s : State) (a : Word) (v : Byte) (k : State → Outcome) :
    Writable s a ∧ storing s a v k = k (s.storeByte a v) ∨
      (s.kindAt a = .rom ∨ s.kindAt a = .hole) ∧ storing s a v k = .fault (.memMap a) :=
  (writable_or_forbidden s a).imp (fun h => ⟨h, storing_writable h v k⟩) fun h => ⟨h, storing_forbidden h v k⟩

/-- If a read goes on to a next state, it was allowed. -/
theorem withByte_next {s t : State} {a : Word} {k : Byte → Outcome} (h : withByte s a k = .next t) :
    Readable s a ∧ k (s.byteAt a) = .next t := by
  rcases withByte_cases s a k with ⟨r, e⟩ | ⟨-, e⟩
  · exact ⟨r, e ▸ h⟩
  · cases e.symm.trans h

/-- If a write goes on to a next state, it was allowed. -/
theorem storing_next {s t : State} {a : Word} {v : Byte} {k : State → Outcome} (h : storing s a v k = .next t) :
    Writable s a ∧ k (s.storeByte a v) = .next t := by
  rcases storing_cases s a v k with ⟨r, e⟩ | ⟨-, e⟩
  · exact ⟨r, e ▸ h⟩
  · cases e.symm.trans h

/-! ## Pairs -/

theorem withPairAt_readable {s : State} {lo hi : Word} (hl : Readable s lo) (hh : Readable s hi)
    (k : Word → Outcome) : withPairAt s lo hi k = k (mkWord (s.byteAt hi) (s.byteAt lo)) := by
  simp [withPairAt, withByte_readable hl, withByte_readable hh]

theorem withPairAt_next {s t : State} {lo hi : Word} {k : Word → Outcome} (h : withPairAt s lo hi k = .next t) :
    Readable s lo ∧ Readable s hi ∧ k (mkWord (s.byteAt hi) (s.byteAt lo)) = .next t := by
  obtain ⟨hl, h⟩ := withByte_next h
  obtain ⟨hh, h⟩ := withByte_next h
  exact ⟨hl, hh, h⟩

theorem withPair_readable {s : State} {a : Word} (h : CanRead s (pairCells a)) (k : Word → Outcome) :
    withPair s a k = k (s.wordAt a) := by
  simp only [pairCells, CanRead_cons, CanRead_nil, and_true] at h
  exact withPairAt_readable h.1 h.2 k

theorem withPair_next {s t : State} {a : Word} {k : Word → Outcome} (h : withPair s a k = .next t) :
    CanRead s (pairCells a) ∧ k (s.wordAt a) = .next t := by
  obtain ⟨hl, hh, h⟩ := withPairAt_next h
  exact ⟨by simp [pairCells, hl, hh], h⟩

theorem withDpWord_readable {s : State} {off : Byte} (h : CanRead s (s.dpCells off)) (k : Word → Outcome) :
    withDpWord s off k = k (s.dpWord off) := by
  simp only [State.dpCells, CanRead_cons, CanRead_nil, and_true] at h
  exact withPairAt_readable h.1 h.2 k

theorem withDpWord_next {s t : State} {off : Byte} {k : Word → Outcome} (h : withDpWord s off k = .next t) :
    CanRead s (s.dpCells off) ∧ k (s.dpWord off) = .next t := by
  obtain ⟨hl, hh, h⟩ := withPairAt_next h
  exact ⟨by simp [State.dpCells, hl, hh], h⟩

/-- A state with a word stored at two cells, low byte first. -/
def State.storeWord (s : State) (lo hi : Word) (w : Word) : State :=
  (s.storeByte lo (loByte w)).storeByte hi (hiByte w)

theorem storingPairAt_writable {s : State} {lo hi : Word} (hl : Writable s lo) (hh : Writable s hi) (w : Word)
    (k : State → Outcome) : storingPairAt s lo hi w k = k (s.storeWord lo hi w) := by
  have hh' : Writable (s.storeByte lo (loByte w)) hi := (Writable_congr rfl hi).mpr hh
  simp [storingPairAt, storing_writable hl, storing_writable hh', State.storeWord]

theorem storingPairAt_next {s t : State} {lo hi w : Word} {k : State → Outcome}
    (h : storingPairAt s lo hi w k = .next t) :
    Writable s lo ∧ Writable s hi ∧ k (s.storeWord lo hi w) = .next t := by
  obtain ⟨hl, h⟩ := storing_next h
  obtain ⟨hh, h⟩ := storing_next h
  exact ⟨hl, (Writable_congr rfl hi).mp hh, h⟩

theorem storingDpWord_writable {s : State} {off : Byte} (h : CanWrite s (s.dpCells off)) (w : Word)
    (k : State → Outcome) :
    storingDpWord s off w k = k (s.storeWord (s.dpAddr off) (s.dpAddrHi off) w) := by
  simp only [State.dpCells, CanWrite_cons, CanWrite_nil, and_true] at h
  exact storingPairAt_writable h.1 h.2 w k

/-- The bytes after a word is stored at two different cells (R37). -/
theorem State.byteAt_storeWord (s : State) {lo hi : Word} (w : Word) (a : Word) (h : lo ≠ hi) :
    (s.storeWord lo hi w).byteAt a = if a = lo then loByte w else if a = hi then hiByte w else s.byteAt a := by
  simp only [State.storeWord, State.byteAt_storeByte]
  by_cases h1 : a = lo
  · subst h1; simp [Ne.symm h]
  · by_cases h2 : a = hi
    · subst h2; simp [h1]
    · simp [h1, h2, Ne.symm h1, Ne.symm h2]

@[simp] theorem State.flag_storeWord (s : State) (lo hi w : Word) (f : Flag) :
    (s.storeWord lo hi w).flag f = s.flag f := rfl

/-! ## The stack -/

/-- Different stack pointers name different cells (R16). -/
theorem stackCell_inj {v w : Byte} (h : stackCell v = stackCell w) : v = w := by
  have := congrArg loByte h
  simpa [stackCell] using this

theorem stackCell_ne {v w : Byte} (h : v ≠ w) : stackCell v ≠ stackCell w := fun e => h (stackCell_inj e)

theorem push8_writable {s : State} (h : Writable s (stackCell s.sp)) (v : Byte) (k : State → Outcome) :
    push8 s v k = k { s.storeByte (stackCell s.sp) v with sp := s.sp - 1#8 } := by
  simp [push8, storing_writable h]

theorem push8_next {s t : State} {v : Byte} {k : State → Outcome} (h : push8 s v k = .next t) :
    Writable s (stackCell s.sp) ∧ k { s.storeByte (stackCell s.sp) v with sp := s.sp - 1#8 } = .next t :=
  storing_next h

theorem pop8_readable {s : State} (h : Readable s (stackCell (s.sp + 1#8))) (k : Byte → State → Outcome) :
    pop8 s k = k (s.byteAt (stackCell (s.sp + 1#8))) { s with sp := s.sp + 1#8 } := by
  simp [pop8, withByte_readable h]

theorem pop8_next {s t : State} {k : Byte → State → Outcome} (h : pop8 s k = .next t) :
    Readable s (stackCell (s.sp + 1#8)) ∧
      k (s.byteAt (stackCell (s.sp + 1#8))) { s with sp := s.sp + 1#8 } = .next t := withByte_next h

/-- The state after `pushPC()`. -/
def State.pushedPC (s : State) : State :=
  { (s.storeByte (stackCell s.sp) (hiByte s.pc)).storeByte (stackCell (s.sp - 1#8)) (loByte s.pc) with
    sp := s.sp - 2#8 }

/-! ### The state after `pushPC()` -/

@[simp] theorem State.pushedPC_a (s : State) : s.pushedPC.a = s.a := by simp [State.pushedPC]
@[simp] theorem State.pushedPC_x (s : State) : s.pushedPC.x = s.x := by simp [State.pushedPC]
@[simp] theorem State.pushedPC_y (s : State) : s.pushedPC.y = s.y := by simp [State.pushedPC]
@[simp] theorem State.pushedPC_psw (s : State) : s.pushedPC.psw = s.psw := by simp [State.pushedPC]
@[simp] theorem State.pushedPC_pc (s : State) : s.pushedPC.pc = s.pc := by simp [State.pushedPC]
@[simp] theorem State.pushedPC_stopped (s : State) : s.pushedPC.stopped = s.stopped := by simp [State.pushedPC]
@[simp] theorem State.pushedPC_memMap (s : State) : s.pushedPC.memMap = s.memMap := by simp [State.pushedPC]
@[simp] theorem State.pushedPC_irqTable (s : State) : s.pushedPC.irqTable = s.irqTable := by simp [State.pushedPC]
@[simp] theorem State.pushedPC_resetRequest (s : State) : s.pushedPC.resetRequest = s.resetRequest := by simp [State.pushedPC]
@[simp] theorem State.pushedPC_iShadow (s : State) : s.pushedPC.iShadow = s.iShadow := by simp [State.pushedPC]
@[simp] theorem State.pushedPC_draws (s : State) : s.pushedPC.draws = s.draws := by simp [State.pushedPC]
@[simp] theorem State.pushedPC_sp (s : State) : s.pushedPC.sp = s.sp - 2#8 := by simp [State.pushedPC]
@[simp] theorem State.flag_pushedPC (s : State) (f : Flag) : s.pushedPC.flag f = s.flag f := rfl

theorem byte_sub_ne {v : Byte} {j k : Byte} (h : j ≠ k) : v - j ≠ v - k := fun e => h (by simpa using e)

theorem byte_ne_sub {v : Byte} {k : Byte} (h : k ≠ 0#8) : v ≠ v - k := by
  have := byte_sub_ne (v := v) (Ne.symm h)
  simpa using this

/-- The two pushed bytes, high byte at the higher address, and every other byte as before (R16, R201). -/
theorem State.byteAt_pushedPC (s : State) (a : Word) :
    s.pushedPC.byteAt a =
      if a = stackCell (s.sp - 1#8) then loByte s.pc else if a = stackCell s.sp then hiByte s.pc else s.byteAt a := by
  show ((s.storeByte (stackCell s.sp) (hiByte s.pc)).storeByte (stackCell (s.sp - 1#8)) (loByte s.pc)).byteAt a = _
  simp only [State.byteAt_storeByte]
  by_cases h1 : a = stackCell (s.sp - 1#8)
  · subst h1; simp
  · by_cases h2 : a = stackCell s.sp
    · subst h2; simp [h1, Ne.symm h1]
    · simp [h1, h2, Ne.symm h1, Ne.symm h2]

theorem byte_sub_two (v : Byte) : v - 1#8 - 1#8 = v - 2#8 := by
  rw [BitVec.sub_sub]; rfl

theorem byte_sub_three (v : Byte) : v - 2#8 - 1#8 = v - 3#8 := by
  rw [BitVec.sub_sub]; rfl

theorem pushPC_writable {s : State} (h : CanWrite s s.callCells) (k : State → Outcome) :
    pushPC s k = k s.pushedPC := by
  simp only [State.callCells, CanWrite_cons, CanWrite_nil, and_true] at h
  unfold pushPC
  rw [push8_writable h.1]
  generalize hs1 : ({ s.storeByte (stackCell s.sp) (hiByte s.pc) with sp := s.sp - 1#8 } : State) = s1
  have hm : s1.memMap = s.memMap := by subst hs1; rfl
  have hp : s1.sp = s.sp - 1#8 := by subst hs1; rfl
  rw [push8_writable ((Writable_congr hm _).mpr (hp ▸ h.2)), hp, byte_sub_two]
  subst hs1
  rfl

theorem pushPC_next {s t : State} {k : State → Outcome} (h : pushPC s k = .next t) :
    CanWrite s s.callCells ∧ k s.pushedPC = .next t := by
  obtain ⟨h1, h2⟩ := push8_next h
  obtain ⟨h2, -⟩ := push8_next h2
  have hw : CanWrite s s.callCells := by
    simp only [State.callCells, CanWrite_cons, CanWrite_nil, and_true]
    refine ⟨h1, ?_⟩
    generalize hs1 : ({ s.storeByte (stackCell s.sp) (hiByte s.pc) with sp := s.sp - 1#8 } : State) = s1 at h2
    have hm : s1.memMap = s.memMap := by subst hs1; rfl
    have hp : s1.sp = s.sp - 1#8 := by subst hs1; rfl
    exact hp ▸ (Writable_congr hm _).mp h2
  exact ⟨hw, by rw [← pushPC_writable hw k]; exact h⟩

/-- The state after `pop8()` twice into PC. -/
def State.poppedPC (s : State) : State :=
  { s with
    pc := mkWord (s.byteAt (stackCell (s.sp + 2#8))) (s.byteAt (stackCell (s.sp + 1#8))), sp := s.sp + 2#8 }

theorem byte_add_two (v : Byte) : v + 1#8 + 1#8 = v + 2#8 := by
  rw [BitVec.add_assoc]; rfl

theorem popPC_readable {s : State} (h : CanRead s [stackCell (s.sp + 1#8), stackCell (s.sp + 2#8)])
    (k : State → Outcome) : popPC s k = k s.poppedPC := by
  simp only [CanRead_cons, CanRead_nil, and_true] at h
  unfold popPC
  rw [pop8_readable h.1]
  generalize hs1 : ({ s with sp := s.sp + 1#8 } : State) = s1
  have hm : s1.memMap = s.memMap := by subst hs1; rfl
  have hp : s1.sp + 1#8 = s.sp + 2#8 := by subst hs1; exact byte_add_two s.sp
  rw [pop8_readable ((Readable_congr hm _).mpr (hp ▸ h.2)), hp]
  subst hs1
  rfl

theorem popPC_next {s t : State} {k : State → Outcome} (h : popPC s k = .next t) :
    CanRead s [stackCell (s.sp + 1#8), stackCell (s.sp + 2#8)] ∧ k s.poppedPC = .next t := by
  obtain ⟨h1, h2⟩ := pop8_next h
  obtain ⟨h2, -⟩ := pop8_next h2
  have hr : CanRead s [stackCell (s.sp + 1#8), stackCell (s.sp + 2#8)] := by
    simp only [CanRead_cons, CanRead_nil, and_true]
    refine ⟨h1, ?_⟩
    generalize hs1 : ({ s with sp := s.sp + 1#8 } : State) = s1 at h2
    have hm : s1.memMap = s.memMap := by subst hs1; rfl
    have hp : s1.sp + 1#8 = s.sp + 2#8 := by subst hs1; exact byte_add_two s.sp
    exact (Readable_congr hm _).mp (hp ▸ h2)
  exact ⟨hr, by rw [← popPC_readable hr k]; exact h⟩

/-! ## Exception entry and return -/

/-- The state after the three pushes of an entry, with I cleared. -/
def State.entered (s : State) : State :=
  ({ s.pushedPC.storeByte (stackCell (s.sp - 2#8)) s.psw with sp := s.sp - 3#8 }).setFlag .i false

/-! ### The state after an entry -/

@[simp] theorem State.entered_a (s : State) : s.entered.a = s.a := by simp [State.entered]
@[simp] theorem State.entered_x (s : State) : s.entered.x = s.x := by simp [State.entered]
@[simp] theorem State.entered_y (s : State) : s.entered.y = s.y := by simp [State.entered]
@[simp] theorem State.entered_pc (s : State) : s.entered.pc = s.pc := by simp [State.entered]
@[simp] theorem State.entered_stopped (s : State) : s.entered.stopped = s.stopped := by simp [State.entered]
@[simp] theorem State.entered_memMap (s : State) : s.entered.memMap = s.memMap := by simp [State.entered]
@[simp] theorem State.entered_irqTable (s : State) : s.entered.irqTable = s.irqTable := by simp [State.entered]
@[simp] theorem State.entered_resetRequest (s : State) : s.entered.resetRequest = s.resetRequest := by simp [State.entered]
@[simp] theorem State.entered_iShadow (s : State) : s.entered.iShadow = s.iShadow := by simp [State.entered]
@[simp] theorem State.entered_draws (s : State) : s.entered.draws = s.draws := by simp [State.entered]
@[simp] theorem State.entered_sp (s : State) : s.entered.sp = s.sp - 3#8 := by simp [State.entered]

/-- An entry clears I and no other flag (R235). -/
theorem State.flag_entered (s : State) (f : Flag) : s.entered.flag f = if f = .i then false else s.flag f := by
  unfold State.entered
  rw [State.flag_setFlag]
  cases f <;> rfl

/-- The three pushed bytes, and every other byte as before (R235). -/
theorem State.byteAt_entered (s : State) (a : Word) :
    s.entered.byteAt a =
      if a = stackCell (s.sp - 2#8) then s.psw
      else if a = stackCell (s.sp - 1#8) then loByte s.pc
      else if a = stackCell s.sp then hiByte s.pc
      else s.byteAt a := by
  show (s.pushedPC.storeByte (stackCell (s.sp - 2#8)) s.psw).byteAt a = _
  rw [State.byteAt_storeByte, State.byteAt_pushedPC]
  by_cases h : a = stackCell (s.sp - 2#8)
  · subst h; simp
  · simp [h, Ne.symm h]

/-- The entry sequence, where its cells may be accessed (R235). -/
theorem enterHandler_mapped {s : State} {vector : Word} {ack : State → State} (hm : ∀ t, (ack t).memMap = t.memMap)
    (hw : CanWrite s s.entryCells) (hr : CanRead s (pairCells vector)) :
    enterHandler vector ack s = .next { ack s.entered with pc := (ack s.entered).wordAt vector } := by
  simp only [State.entryCells, CanWrite_cons, CanWrite_nil, and_true] at hw
  have hc : CanWrite s s.callCells := by
    simp only [State.callCells, CanWrite_cons, CanWrite_nil, and_true]
    exact ⟨hw.1, hw.2.1⟩
  unfold enterHandler
  rw [pushPC_writable hc, push8_writable (s := s.pushedPC) ((Writable_congr s.pushedPC_memMap _).mpr hw.2.2)]
  have e : ({ s.pushedPC.storeByte (stackCell s.pushedPC.sp) s.psw with sp := s.pushedPC.sp - 1#8 } : State).setFlag
      .i false = s.entered := by
    simp only [State.pushedPC_sp, byte_sub_three]
    rfl
  rw [e, withPair_readable fun a ha => (Readable_congr ((hm _).trans s.entered_memMap) a).mpr (hr a ha)]

/-- Everything an entry can have done when it answered a next state. -/
theorem enterHandler_next {s t : State} {vector : Word} {ack : State → State} (hm : ∀ t, (ack t).memMap = t.memMap)
    (h : enterHandler vector ack s = .next t) :
    CanWrite s s.entryCells ∧ CanRead s (pairCells vector) ∧
      t = { ack s.entered with pc := (ack s.entered).wordAt vector } := by
  have h0 := h
  obtain ⟨hc, h⟩ := pushPC_next h
  obtain ⟨h3, h⟩ := push8_next h
  obtain ⟨hr, -⟩ := withPair_next h
  have hw : CanWrite s s.entryCells := by
    simp only [State.callCells, CanWrite_cons, CanWrite_nil, and_true] at hc
    simp only [State.entryCells, CanWrite_cons, CanWrite_nil, and_true]
    exact ⟨hc.1, hc.2, (Writable_congr s.pushedPC_memMap _).mp h3⟩
  have hr' : CanRead s (pairCells vector) := by
    intro a ha
    have h4 := hr a ha
    rw [Readable_congr (hm _)] at h4
    exact h4
  exact ⟨hw, hr', Host.Outcome.next.inj (h0.symm.trans (enterHandler_mapped hm hw hr'))⟩

end Sys2Proof.Machine
end

