-- ==== Sys2Proof/Laws/Operands.lean ====
section
/-! SUPPORT. The laws of the operand forms: forming an address, reading an operand, storing and
read-modify-write. -/

namespace Sys2Proof.Machine

/-- Below offset `FFh` a pair lies within its page whatever PAIR_WRAP is (R36). -/
theorem State.dpAddrHi_of_ne (s : State) {off : Byte} (h : off ≠ 255#8) : s.dpAddrHi off = s.dpAddr (off + 1#8) := by
  simp [State.dpAddrHi, h]

/-- At offset `FFh` the high byte lies where one of the two readings of PAIR_WRAP puts it (R36, D2). -/
theorem State.dpAddrHi_last (s : State) : s.dpAddrHi 255#8 = s.dpAddr 0#8 ∨ s.dpAddrHi 255#8 = s.dpAddr 255#8 + 1#16 := by
  unfold State.dpAddrHi
  rw [if_pos rfl]
  cases Config.pairWrap
  · exact .inl rfl
  · exact .inr rfl

/-- The address of a direct-page offset (R72). -/
theorem State.dpAddr_toNat (s : State) (off : Byte) :
    (s.dpAddr off).toNat = (if s.flag .g then 256 else 0) + off.toNat := by
  unfold State.dpAddr
  rw [mkWord_toNat]
  cases s.flag .g <;> rfl

/-- The two cells of a direct-page pair are different under either reading of PAIR_WRAP (R36). -/
theorem State.dpAddr_ne_dpAddrHi (s : State) (off : Byte) : s.dpAddr off ≠ s.dpAddrHi off := by
  intro h
  by_cases hf : off = 255#8
  · subst hf
    have := congrArg BitVec.toNat h
    rcases s.dpAddrHi_last with e | e <;> rw [e] at this <;> simp [State.dpAddr_toNat, BitVec.toNat_add] at this
    split at this <;> omega
  · rw [State.dpAddrHi_of_ne s hf] at h
    have := congrArg BitVec.toNat h
    simp [State.dpAddr_toNat] at this
    have := off.isLt
    omega

/-- Forming an effective address gives `Mode.ea` where its pointer can be read. -/
theorem withEA_readable {m : Mode} {s : State} (h : CanRead s (m.pointerCells s)) (k : Word → Outcome) :
    withEA m s k = k (m.ea s) := by
  cases m with
  | indDpX off => exact withDpWord_readable h k
  | indDpY off => exact withDpWord_readable h _
  | _ => rfl

theorem withEA_next {m : Mode} {s t : State} {k : Word → Outcome} (h : withEA m s k = .next t) :
    CanRead s (m.pointerCells s) ∧ k (m.ea s) = .next t := by
  cases m with
  | indDpX off => exact withDpWord_next h
  | indDpY off => exact withDpWord_next h
  | _ => exact ⟨CanRead_nil s, h⟩

/-- Reading an operand gives its value where its cells can be read. -/
theorem withSrc_readable {o : Src} {s : State} (h : CanRead s (o.cells s)) (k : Byte → Outcome) :
    withSrc o s k = k (o.value s) := by
  cases o with
  | imm v => rfl
  | mem m =>
    simp only [Src.cells, CanRead_append, CanRead_cons, CanRead_nil, and_true] at h
    simp only [withSrc]
    rw [withEA_readable h.1, withByte_readable h.2]
    rfl

theorem withSrc_next {o : Src} {s t : State} {k : Byte → Outcome} (h : withSrc o s k = .next t) :
    CanRead s (o.cells s) ∧ k (o.value s) = .next t := by
  cases o with
  | imm v => exact ⟨CanRead_nil s, h⟩
  | mem m =>
    obtain ⟨hp, h⟩ := withEA_next (k := fun ea => withByte s ea k) h
    obtain ⟨he, h⟩ := withByte_next h
    exact ⟨by simp [Src.cells, hp, he], h⟩

/-- Storing at an effective address, where its pointer can be read and its cell written. -/
theorem storeMode_mapped {m : Mode} {s : State} (hp : CanRead s (m.pointerCells s)) (hw : Writable s (m.ea s))
    (v : Byte) (k : State → Outcome) : storeMode m v s k = k (s.storeByte (m.ea s) v) := by
  unfold storeMode
  rw [withEA_readable hp, storing_writable hw]

theorem storeMode_next {m : Mode} {s t : State} {v : Byte} {k : State → Outcome}
    (h : storeMode m v s k = .next t) :
    CanRead s (m.pointerCells s) ∧ Writable s (m.ea s) ∧ k (s.storeByte (m.ea s) v) = .next t := by
  obtain ⟨hp, h⟩ := withEA_next h
  obtain ⟨hw, h⟩ := storing_next h
  exact ⟨hp, hw, h⟩

/-- Read-modify-write of one cell that can be written (R37). -/
theorem modifyAt_writable {s : State} {ea : Word} (h : Writable s ea) (f : Byte → Byte)
    (g : Byte → State → State) :
    modifyAt ea f g s = .next (g (s.byteAt ea) (s.storeByte ea (f (s.byteAt ea)))) := by
  unfold modifyAt
  rw [withByte_readable h.readable, storing_writable h]

theorem modifyAt_next {s t : State} {ea : Word} {f : Byte → Byte} {g : Byte → State → State}
    (h : modifyAt ea f g s = .next t) :
    Writable s ea ∧ t = g (s.byteAt ea) (s.storeByte ea (f (s.byteAt ea))) := by
  obtain ⟨-, h⟩ := withByte_next h
  obtain ⟨hw, h⟩ := storing_next h
  injection h with h
  exact ⟨hw, h.symm⟩

/-- Read-modify-write of a memory operand (R37). -/
theorem modifyMode_mapped {m : Mode} {s : State} (hp : CanRead s (m.pointerCells s)) (hw : Writable s (m.ea s))
    (f : Byte → Byte) (g : Byte → State → State) :
    modifyMode m f g s = .next (g (s.byteAt (m.ea s)) (s.storeByte (m.ea s) (f (s.byteAt (m.ea s))))) := by
  unfold modifyMode
  rw [withEA_readable hp, modifyAt_writable hw]

theorem modifyMode_next {m : Mode} {s t : State} {f : Byte → Byte} {g : Byte → State → State}
    (h : modifyMode m f g s = .next t) :
    CanRead s (m.pointerCells s) ∧ Writable s (m.ea s) ∧
      t = g (s.byteAt (m.ea s)) (s.storeByte (m.ea s) (f (s.byteAt (m.ea s)))) := by
  obtain ⟨hp, h⟩ := withEA_next h
  exact ⟨hp, modifyAt_next h⟩

end Sys2Proof.Machine
end

