-- ==== Sys2Proof/Laws/Accesses.lean ====
section
/-! SUPPORT. What an outcome makes of a list of accesses: it stops at the first that MEMMAP forbids, else goes on to a
next state in which only the cells written differ. One law for each shared operation. -/

namespace Sys2Proof.Machine

@[simp] theorem State.firstForbidden_nil (s : State) : s.firstForbidden [] = none := rfl

/-- The first access decides, if it is forbidden; else the rest do. -/
theorem State.firstForbidden_cons (s : State) (x : Access) (l : List Access) :
    s.firstForbidden (x :: l) = match s.forbids x with | some a => some a | none => s.firstForbidden l := by
  simp only [State.firstForbidden, List.findSome?_cons]
  cases s.forbids x <;> rfl

/-- MEMMAP alone decides which access is the first forbidden one. -/
theorem State.firstForbidden_congr {s t : State} (h : t.memMap = s.memMap) (l : List Access) :
    t.firstForbidden l = s.firstForbidden l := by
  have e : t.forbids = s.forbids := by
    funext x
    cases x <;> simp only [State.forbids, State.kindAt_congr h]
  simp only [State.firstForbidden, e]

/-- These accesses, in order, and no others: a fault at the first that MEMMAP forbids, else a next state that keeps
MEMMAP and every cell that is not written. -/
def Performs (s : State) (l : List Access) (o : Outcome) : Prop :=
  match s.firstForbidden l with
  | some a => o = .fault (.memMap a)
  | none => ∃ t, o = .next t ∧ t.memMap = s.memMap ∧ ∀ a, .write a ∉ l → t.byteAt a = s.byteAt a

variable {s t : State} {l : List Access} {o : Outcome}

/-- No access, and a next state with the same memory. -/
theorem Performs.next (hm : t.memMap = s.memMap) (hb : t.mem = s.mem) : Performs s [] (.next t) :=
  ⟨t, rfl, hm, fun a _ => State.byteAt_congr hb a⟩

/-- Go on from a state with the same memory. -/
theorem Performs.after (hm : t.memMap = s.memMap) (hb : t.mem = s.mem) (h : Performs t l o) : Performs s l o := by
  unfold Performs at *
  rw [State.firstForbidden_congr hm] at h
  revert h
  cases s.firstForbidden l with
  | some a => exact id
  | none =>
    rintro ⟨u, e, m, b⟩
    exact ⟨u, e, m.trans hm, fun a ha => (b a ha).trans (State.byteAt_congr hb a)⟩

/-- A read is one access (R9). -/
theorem Performs.withByte {a : Word} {k : Byte → Outcome} (h : Performs s l (k (s.byteAt a))) :
    Performs s (.read a :: l) (withByte s a k) := by
  unfold Performs at *
  rw [State.firstForbidden_cons]
  rcases withByte_cases s a k with ⟨r, e⟩ | ⟨f, e⟩ <;> rw [e]
  · have : s.forbids (.read a) = none := by
      rcases r with r | r | r <;> simp [State.forbids, r]
    rw [this]
    simpa using h
  · simp [State.forbids, f]

/-- A write is one access, and what follows goes on from the written state (R9). -/
theorem Performs.storing {a : Word} {v : Byte} {k : State → Outcome}
    (h : Performs (s.storeByte a v) l (k (s.storeByte a v))) : Performs s (.write a :: l) (storing s a v k) := by
  unfold Performs at *
  rw [State.firstForbidden_cons]
  rcases storing_cases s a v k with ⟨r, e⟩ | ⟨f, e⟩ <;> rw [e]
  · have : s.forbids (.write a) = none := by
      rcases r with r | r <;> simp [State.forbids, r]
    rw [this]
    rw [State.firstForbidden_congr (s := s) (t := s.storeByte a v) rfl] at h
    revert h
    dsimp only
    cases s.firstForbidden l with
    | some b => exact id
    | none =>
      rintro ⟨u, e, m, b⟩
      refine ⟨u, e, m, fun p hp => ?_⟩
      rw [List.mem_cons, not_or] at hp
      rw [b p hp.2, State.byteAt_storeByte, if_neg fun e => hp.1 (congrArg Access.write e.symm)]
  · rcases f with f | f <;> simp [State.forbids, f]

/-- A pair is read low byte first (R37). -/
theorem Performs.withPair {a : Word} {k : Word → Outcome} (h : Performs s l (k (s.wordAt a))) :
    Performs s (readsOf (pairCells a) ++ l) (withPair s a k) := by
  show Performs s (.read a :: .read (a + 1#16) :: l)
    (Machine.withByte s a fun lo => Machine.withByte s (a + 1#16) fun hi => k (mkWord hi lo))
  exact .withByte (.withByte h)

/-- A direct-page pair is read low byte first (R36, R37). -/
theorem Performs.withDpWord {off : Byte} {k : Word → Outcome} (h : Performs s l (k (s.dpWord off))) :
    Performs s (readsOf (s.dpCells off) ++ l) (withDpWord s off k) := by
  show Performs s (.read (s.dpAddr off) :: .read (s.dpAddrHi off) :: l)
    (Machine.withByte s (s.dpAddr off) fun lo => Machine.withByte s (s.dpAddrHi off) fun hi => k (mkWord hi lo))
  exact .withByte (.withByte h)

/-- Forming an effective address reads the pointer pair, if there is one (R82, R83). -/
theorem Performs.withEA {m : Mode} {k : Word → Outcome} (h : Performs s l (k (m.ea s))) :
    Performs s (readsOf (m.pointerCells s) ++ l) (withEA m s k) := by
  cases m with
  | indDpX off => exact .withDpWord h
  | indDpY off => exact .withDpWord (k := fun p => k (p + zext16 s.y)) h
  | _ => exact h

/-- An operand is read after its pointer pair. -/
theorem Performs.withSrc {x : Src} {k : Byte → Outcome} (h : Performs s l (k (x.value s))) :
    Performs s (readsOf (x.cells s) ++ l) (withSrc x s k) := by
  cases x with
  | imm v => exact h
  | mem m =>
    have := Performs.withEA (m := m) (k := fun ea => Machine.withByte s ea k) (.withByte h)
    simpa [readsOf, Src.cells, Machine.withSrc] using this

/-- A store reads the pointer pair and writes one cell (R39). -/
theorem Performs.storeMode {m : Mode} {v : Byte} {k : State → Outcome}
    (h : Performs (s.storeByte (m.ea s) v) l (k (s.storeByte (m.ea s) v))) :
    Performs s (m.storing s ++ l) (storeMode m v s k) := by
  have := Performs.withEA (m := m) (k := fun ea => Machine.storing s ea v k) (.storing h)
  simpa [Mode.storing, writesOf, Machine.storeMode] using this

/-- A push is one write (R16). -/
theorem Performs.push8 {v : Byte} {k : State → Outcome}
    (h : Performs { s.storeByte (stackCell s.sp) v with sp := s.sp - 1#8 } l
      (k { s.storeByte (stackCell s.sp) v with sp := s.sp - 1#8 })) :
    Performs s (.write (stackCell s.sp) :: l) (push8 s v k) :=
  .storing (.after rfl rfl h)

/-- A pop is one read (R16). -/
theorem Performs.pop8 {k : Byte → State → Outcome}
    (h : Performs { s with sp := s.sp + 1#8 } l
      (k (s.byteAt (stackCell (s.sp + 1#8))) { s with sp := s.sp + 1#8 })) :
    Performs s (.read (stackCell (s.sp + 1#8)) :: l) (pop8 s k) :=
  .withByte (.after rfl rfl h)

end Sys2Proof.Machine
end

