-- ==== Sys2Proof/Laws/Decode.lean ====
section
/-! SUPPORT. The laws of the encoding: what an op code that carries a bit number or a table number selects, and
the fields of each format read back from the bytes the encoder writes. -/

namespace Sys2Proof

open Machine

/-- Op codes with a bit number over these low five bits have two bytes (R56, R58). -/
theorem instrLength_bitOp_two (b : BitNo) (low : BitVec 5) (h : low ∈ [0x01#5, 0x02#5, 0x11#5, 0x12#5]) :
    instrLength (bitOp low b) = 2 := by
  revert b
  simp only [List.mem_cons, List.mem_nil_iff, or_false] at h
  rcases h with rfl | rfl | rfl | rfl <;> decide

/-- Op codes with a bit number over these low five bits have three bytes (R56, R58). -/
theorem instrLength_bitOp_three (b : BitNo) (low : BitVec 5) (h : low ∈ [0x03#5, 0x13#5]) :
    instrLength (bitOp low b) = 3 := by
  revert b
  simp only [List.mem_cons, List.mem_nil_iff, or_false] at h
  rcases h with rfl | rfl <;> decide

/-- TCALL has one byte whatever its table number (R56, R94). -/
theorem instrLength_tcall (n : TableNo) : instrLength (n ++ 0xA#4) = 1 := by
  revert n
  decide

/-- The two bytes of an absolute address give it back (R53). -/
theorem mkWord_enc (addr : Word) : mkWord (hiByte addr) (loByte addr) = addr := by
  unfold mkWord hiByte loByte
  apply BitVec.eq_of_toNat_eq
  have e : (BitVec.extractLsb' 8 8 addr ++ BitVec.extractLsb' 0 8 addr : Word).toNat =
      (BitVec.extractLsb' 8 8 addr).toNat <<< 8 ||| (BitVec.extractLsb' 0 8 addr).toNat := BitVec.toNat_append _ _
  rw [e, ← Nat.shiftLeft_add_eq_or_of_lt (BitVec.extractLsb' 0 8 addr).isLt]
  have := addr.isLt
  simp only [BitVec.extractLsb'_toNat, Nat.shiftLeft_eq, Nat.shiftRight_eq_div_pow]
  omega

/-- Byte 2 of an `M.bit` instruction gives its bit number back (R57). -/
theorem upperBitNo_mbitOperand (b : BitNo) (rev : Bool) (addr : Word) : upperBitNo (mbitOperand b rev addr) = b := by
  have : ∀ (b : BitNo) (r : BitVec 1) (q : BitVec 4), upperBitNo (b ++ r ++ q) = b := by decide
  exact this b _ _

/-- Byte 2 of an `M.bit` instruction gives its reversal bit back (R57). -/
theorem reversal_mbitOperand (b : BitNo) (rev : Bool) (addr : Word) :
    (mbitOperand b rev addr).getLsbD 4 = rev := by
  have : ∀ (b : BitNo) (r : Bool) (q : BitVec 4), (b ++ BitVec.ofBool r ++ q).getLsbD 4 = r := by decide
  exact this b rev _

/-- Byte 2 of an A.bit instruction gives its bit number back (R56). -/
theorem upperBitNo_abit (b : BitNo) : upperBitNo (b ++ 0#5) = b := by
  revert b
  decide

/-- An A.bit operand byte has its reserved bits zero (R56, D7). -/
theorem abit_reserved (b : BitNo) : ((b ++ 0#5 : Byte) &&& 0x1F) = 0 := by
  revert b
  decide

end Sys2Proof
end

