-- ==== Sys2Proof/Laws/Interrupts.lean ====
section
/-! SUPPORT. The requests of the interrupt sources: what latching, withdrawing and dropping them leaves alone, which
source is accepted, and all that an acceptance can have done. -/

namespace Sys2Proof.Machine

/-! ### setRequest -/

@[simp] theorem State.setRequest_a (s : State) (src : IrqSource) (v : Bool) : (s.setRequest src v).a = s.a := by
  unfold State.setRequest; split <;> rfl

@[simp] theorem State.setRequest_x (s : State) (src : IrqSource) (v : Bool) : (s.setRequest src v).x = s.x := by
  unfold State.setRequest; split <;> rfl

@[simp] theorem State.setRequest_y (s : State) (src : IrqSource) (v : Bool) : (s.setRequest src v).y = s.y := by
  unfold State.setRequest; split <;> rfl

@[simp] theorem State.setRequest_sp (s : State) (src : IrqSource) (v : Bool) : (s.setRequest src v).sp = s.sp := by
  unfold State.setRequest; split <;> rfl

@[simp] theorem State.setRequest_psw (s : State) (src : IrqSource) (v : Bool) : (s.setRequest src v).psw = s.psw := by
  unfold State.setRequest; split <;> rfl

@[simp] theorem State.setRequest_pc (s : State) (src : IrqSource) (v : Bool) : (s.setRequest src v).pc = s.pc := by
  unfold State.setRequest; split <;> rfl

@[simp] theorem State.setRequest_stopped (s : State) (src : IrqSource) (v : Bool) : (s.setRequest src v).stopped = s.stopped := by
  unfold State.setRequest; split <;> rfl

@[simp] theorem State.setRequest_memMap (s : State) (src : IrqSource) (v : Bool) : (s.setRequest src v).memMap = s.memMap := by
  unfold State.setRequest; split <;> rfl

@[simp] theorem State.setRequest_resetRequest (s : State) (src : IrqSource) (v : Bool) : (s.setRequest src v).resetRequest = s.resetRequest := by
  unfold State.setRequest; split <;> rfl

@[simp] theorem State.setRequest_iShadow (s : State) (src : IrqSource) (v : Bool) : (s.setRequest src v).iShadow = s.iShadow := by
  unfold State.setRequest; split <;> rfl

@[simp] theorem State.setRequest_draws (s : State) (src : IrqSource) (v : Bool) : (s.setRequest src v).draws = s.draws := by
  unfold State.setRequest; split <;> rfl

/-! ### clearRequest -/

@[simp] theorem State.clearRequest_a (s : State) (src : IrqSource) : (s.clearRequest src).a = s.a :=
  s.setRequest_a src false

@[simp] theorem State.clearRequest_x (s : State) (src : IrqSource) : (s.clearRequest src).x = s.x :=
  s.setRequest_x src false

@[simp] theorem State.clearRequest_y (s : State) (src : IrqSource) : (s.clearRequest src).y = s.y :=
  s.setRequest_y src false

@[simp] theorem State.clearRequest_sp (s : State) (src : IrqSource) : (s.clearRequest src).sp = s.sp :=
  s.setRequest_sp src false

@[simp] theorem State.clearRequest_psw (s : State) (src : IrqSource) : (s.clearRequest src).psw = s.psw :=
  s.setRequest_psw src false

@[simp] theorem State.clearRequest_pc (s : State) (src : IrqSource) : (s.clearRequest src).pc = s.pc :=
  s.setRequest_pc src false

@[simp] theorem State.clearRequest_stopped (s : State) (src : IrqSource) : (s.clearRequest src).stopped = s.stopped :=
  s.setRequest_stopped src false

@[simp] theorem State.clearRequest_memMap (s : State) (src : IrqSource) : (s.clearRequest src).memMap = s.memMap :=
  s.setRequest_memMap src false

@[simp] theorem State.clearRequest_resetRequest (s : State) (src : IrqSource) : (s.clearRequest src).resetRequest = s.resetRequest :=
  s.setRequest_resetRequest src false

@[simp] theorem State.clearRequest_iShadow (s : State) (src : IrqSource) : (s.clearRequest src).iShadow = s.iShadow :=
  s.setRequest_iShadow src false

@[simp] theorem State.clearRequest_draws (s : State) (src : IrqSource) : (s.clearRequest src).draws = s.draws :=
  s.setRequest_draws src false

/-! ### clearRequests -/

@[simp] theorem clearRequests_a (l : List IrqSource) : ∀ s : State, (clearRequests s l).a = s.a := by
  induction l with
  | nil => exact fun _ => rfl
  | cons src rest ih => exact fun s => (ih _).trans (s.clearRequest_a src)

@[simp] theorem clearRequests_x (l : List IrqSource) : ∀ s : State, (clearRequests s l).x = s.x := by
  induction l with
  | nil => exact fun _ => rfl
  | cons src rest ih => exact fun s => (ih _).trans (s.clearRequest_x src)

@[simp] theorem clearRequests_y (l : List IrqSource) : ∀ s : State, (clearRequests s l).y = s.y := by
  induction l with
  | nil => exact fun _ => rfl
  | cons src rest ih => exact fun s => (ih _).trans (s.clearRequest_y src)

@[simp] theorem clearRequests_sp (l : List IrqSource) : ∀ s : State, (clearRequests s l).sp = s.sp := by
  induction l with
  | nil => exact fun _ => rfl
  | cons src rest ih => exact fun s => (ih _).trans (s.clearRequest_sp src)

@[simp] theorem clearRequests_psw (l : List IrqSource) : ∀ s : State, (clearRequests s l).psw = s.psw := by
  induction l with
  | nil => exact fun _ => rfl
  | cons src rest ih => exact fun s => (ih _).trans (s.clearRequest_psw src)

@[simp] theorem clearRequests_pc (l : List IrqSource) : ∀ s : State, (clearRequests s l).pc = s.pc := by
  induction l with
  | nil => exact fun _ => rfl
  | cons src rest ih => exact fun s => (ih _).trans (s.clearRequest_pc src)

@[simp] theorem clearRequests_stopped (l : List IrqSource) : ∀ s : State, (clearRequests s l).stopped = s.stopped := by
  induction l with
  | nil => exact fun _ => rfl
  | cons src rest ih => exact fun s => (ih _).trans (s.clearRequest_stopped src)

@[simp] theorem clearRequests_memMap (l : List IrqSource) : ∀ s : State, (clearRequests s l).memMap = s.memMap := by
  induction l with
  | nil => exact fun _ => rfl
  | cons src rest ih => exact fun s => (ih _).trans (s.clearRequest_memMap src)

@[simp] theorem clearRequests_resetRequest (l : List IrqSource) : ∀ s : State, (clearRequests s l).resetRequest = s.resetRequest := by
  induction l with
  | nil => exact fun _ => rfl
  | cons src rest ih => exact fun s => (ih _).trans (s.clearRequest_resetRequest src)

@[simp] theorem clearRequests_iShadow (l : List IrqSource) : ∀ s : State, (clearRequests s l).iShadow = s.iShadow := by
  induction l with
  | nil => exact fun _ => rfl
  | cons src rest ih => exact fun s => (ih _).trans (s.clearRequest_iShadow src)

@[simp] theorem clearRequests_draws (l : List IrqSource) : ∀ s : State, (clearRequests s l).draws = s.draws := by
  induction l with
  | nil => exact fun _ => rfl
  | cons src rest ih => exact fun s => (ih _).trans (s.clearRequest_draws src)

@[simp] theorem State.dropRequests_memMap (s : State) : s.dropRequests.memMap = s.memMap := clearRequests_memMap _ s

@[simp] theorem State.dropRequests_pc (s : State) : s.dropRequests.pc = s.pc := clearRequests_pc _ s

@[simp] theorem State.flag_setRequest (s : State) (src : IrqSource) (v : Bool) (f : Flag) :
    (s.setRequest src v).flag f = s.flag f := by
  simp only [State.flag, State.setRequest_psw]

@[simp] theorem State.flag_clearRequest (s : State) (src : IrqSource) (f : Flag) :
    (s.clearRequest src).flag f = s.flag f := s.flag_setRequest src false f

/-! ### What latching or withdrawing a request writes -/

/-- Of memory, the device register that holds the request (R233). -/
theorem State.byteAt_setRequest (s : State) (src : IrqSource) (v : Bool) (p : Word) :
    (s.setRequest src v).byteAt p =
      match src.request with
      | .hidden _ => s.byteAt p
      | .register a k =>
        if a = p then (if v then withBitSet (s.byteAt a) k else withBitClear (s.byteAt a) k) else s.byteAt p := by
  unfold State.setRequest
  cases src.request with
  | hidden w => rfl
  | register a k => exact s.byteAt_storeByte _ _ _

/-- Of IRQ_TABLE, the request that the device itself holds (R233). -/
theorem State.irqTable_setRequest (s : State) (src : IrqSource) (v : Bool) :
    (s.setRequest src v).irqTable =
      match src.request with
      | .hidden _ => s.irqTable.map fun t => if t.id = src.id then t.setRequest v else t
      | .register _ _ => s.irqTable := by
  unfold State.setRequest
  cases src.request <;> rfl

/-- Memory keeps its canonical form. -/
theorem wf_setRequest {s : State} (h : s.mem.wf = true) (src : IrqSource) (v : Bool) :
    (s.setRequest src v).mem.wf = true := by
  unfold State.setRequest
  split
  · exact h
  · exact wf_storeByte h _ _

@[simp] theorem IrqSource.setRequest_id (src : IrqSource) (v : Bool) : (src.setRequest v).id = src.id := rfl
@[simp] theorem IrqSource.setRequest_vector (src : IrqSource) (v : Bool) : (src.setRequest v).vector = src.vector := rfl
@[simp] theorem IrqSource.setRequest_priority (src : IrqSource) (v : Bool) : (src.setRequest v).priority = src.priority := rfl
@[simp] theorem IrqSource.setRequest_enable (src : IrqSource) (v : Bool) : (src.setRequest v).enable = src.enable := rfl

/-! ### Which source is accepted (R234, R237) -/

/-- No source is found only if none is admitted. -/
theorem highestPriority_none {admits : IrqSource → Bool} {l : List IrqSource} (h : highestPriority admits l = none) :
    ∀ src ∈ l, admits src = false := by
  induction l with
  | nil => simp
  | cons src rest ih =>
    unfold highestPriority at h
    split at h
    · rename_i e
      intro t ht
      rcases List.mem_cons.mp ht with rfl | ht
      · simpa using h
      · exact ih e t ht
    · split at h <;> cases h

/-- The source found is of the list, admitted, and of a priority that no other admitted source exceeds. -/
theorem highestPriority_some {admits : IrqSource → Bool} {l : List IrqSource} {src : IrqSource}
    (h : highestPriority admits l = some src) :
    src ∈ l ∧ admits src = true ∧ ∀ t ∈ l, admits t = true → t.priority ≤ src.priority := by
  induction l generalizing src with
  | nil => cases h
  | cons u rest ih =>
    unfold highestPriority at h
    split at h
    · rename_i e
      split at h
      · rename_i a
        cases h
        refine ⟨List.mem_cons_self .., a, fun t ht hat => ?_⟩
        rcases List.mem_cons.mp ht with rfl | ht
        · exact Nat.le_refl _
        · simp [highestPriority_none e t ht] at hat
      · cases h
    · rename_i v e
      obtain ⟨m, a, top⟩ := ih e
      split at h
      · rename_i c
        cases h
        simp only [Bool.and_eq_true, decide_eq_true_eq] at c
        refine ⟨List.mem_cons_self .., c.1, fun t ht hat => ?_⟩
        rcases List.mem_cons.mp ht with rfl | ht
        · exact Nat.le_refl _
        · exact Nat.le_trans (top t ht hat) c.2
      · rename_i c
        cases h
        refine ⟨List.mem_cons_of_mem _ m, a, fun t ht hat => ?_⟩
        rcases List.mem_cons.mp ht with rfl | ht
        · simp only [hat, Bool.true_and, decide_eq_true_eq] at c
          exact Nat.le_of_lt (Nat.lt_of_not_le c)
        · exact top t ht hat

/-! ### The environment (R248) -/

@[simp] theorem State.assertReset_memMap (s : State) : s.assertReset.memMap = s.memMap := rfl

@[simp] theorem State.raiseRequest_memMap (s : State) (id : Nat) : (s.raiseRequest id).memMap = s.memMap := by
  unfold State.raiseRequest
  split
  · exact s.setRequest_memMap _ _
  · rfl

@[simp] theorem State.changeEnable_memMap (s : State) (id : Nat) (on : Bool) :
    (s.changeEnable id on).memMap = s.memMap := rfl

@[simp] theorem State.changeDevice_memMap (s : State) (a : Word) (v : Byte) : (s.changeDevice a v).memMap = s.memMap := by
  unfold State.changeDevice
  split <;> rfl

@[simp] theorem State.environment_memMap (s : State) (m : EnvMove) : (s.environment m).memMap = s.memMap := by
  cases m with
  | reset => rfl
  | request id => exact s.raiseRequest_memMap id
  | enable id on => rfl
  | device a v => exact s.changeDevice_memMap a v

/-! ### Acceptance (R235) -/

/-- Everything an acceptance can have done when it answered a next state (R235). -/
theorem acceptIrq_next {src : IrqSource} {s t : State} (h : acceptIrq src s = .next t) :
    CanWrite s s.entryCells ∧ CanRead s (pairCells src.vector) ∧
      t = { ({ s with iShadow := false } : State).entered.clearRequest src with
        pc := (({ s with iShadow := false } : State).entered.clearRequest src).wordAt src.vector } :=
  enterHandler_next (s := { s with iShadow := false }) (fun u => u.clearRequest_memMap src) h

end Sys2Proof.Machine
end

