-- ==== Sys2Proof/Laws/Outcome.lean ====
section
/-! SUPPORT. What an outcome can be, for any relation between the state before and the state after: one law for each
shared operation, so that a property of all instructions is proved arm by arm without unfolding an operation. -/

namespace Sys2Proof.Machine

/-- A next state stands in the relation; a stop is one of MEMMAP's (R33); nothing is refused. -/
def Within (P : State → State → Prop) (s : State) (o : Outcome) : Prop :=
  match o with
  | .next t => P s t
  | .fault f => ∃ a, f = .memMap a ∧ (s.kindAt a = .rom ∨ s.kindAt a = .hole)
  | .refused _ => False

/-- A relation that composes and keeps MEMMAP. -/
structure Tracks (P : State → State → Prop) : Prop where
  trans : ∀ {s t u}, P s t → P t u → P s u
  memMap : ∀ {s t}, P s t → t.memMap = s.memMap

variable {P : State → State → Prop} {s : State}

theorem Within.next {t : State} (h : P s t) : Within P s (.next t) := h

/-- Go on from a related state. -/
theorem Within.after (T : Tracks P) {t : State} {o : Outcome} (h : P s t) (g : Within P t o) : Within P s o := by
  cases o with
  | next u => exact T.trans h g
  | fault f =>
    obtain ⟨a, e, k⟩ := g
    exact ⟨a, e, by rwa [State.kindAt_congr (T.memMap h)] at k⟩
  | refused r => exact g

/-! ## Memory -/

theorem Within.withByte {a : Word} {k : Byte → Outcome} (h : ∀ v, Within P s (k v)) :
    Within P s (withByte s a k) := by
  rcases withByte_cases s a k with ⟨-, e⟩ | ⟨f, e⟩ <;> rw [e]
  · exact h _
  · exact ⟨a, rfl, .inr f⟩

theorem Within.storing (T : Tracks P) (S : ∀ s a v, P s (s.storeByte a v)) {a : Word} {v : Byte}
    {k : State → Outcome} (h : ∀ t, Within P t (k t)) : Within P s (storing s a v k) := by
  rcases storing_cases s a v k with ⟨-, e⟩ | ⟨f, e⟩ <;> rw [e]
  · exact .after T (S s a v) (h _)
  · exact ⟨a, rfl, f⟩

theorem Within.withPair {a : Word} {k : Word → Outcome} (h : ∀ w, Within P s (k w)) :
    Within P s (withPair s a k) :=
  .withByte fun _ => .withByte fun _ => h _

theorem Within.withDpWord {off : Byte} {k : Word → Outcome} (h : ∀ w, Within P s (k w)) :
    Within P s (withDpWord s off k) :=
  .withByte fun _ => .withByte fun _ => h _

theorem Within.storingDpWord (T : Tracks P) (S : ∀ s a v, P s (s.storeByte a v)) {off : Byte} {w : Word}
    {k : State → Outcome} (h : ∀ t, Within P t (k t)) : Within P s (storingDpWord s off w k) :=
  .storing T S fun _ => .storing T S h

/-! ## Operands -/

theorem Within.withEA {m : Mode} {k : Word → Outcome} (h : ∀ a, Within P s (k a)) : Within P s (withEA m s k) := by
  cases m with
  | indDpX off => exact .withDpWord h
  | indDpY off => exact .withDpWord fun _ => h _
  | _ => exact h _

theorem Within.withSrc {o : Src} {k : Byte → Outcome} (h : ∀ v, Within P s (k v)) : Within P s (withSrc o s k) := by
  cases o with
  | imm v => exact h v
  | mem m => exact .withEA (k := fun ea => Machine.withByte s ea k) fun _ => .withByte h

theorem Within.storeMode (T : Tracks P) (S : ∀ s a v, P s (s.storeByte a v)) {m : Mode} {v : Byte}
    {k : State → Outcome} (h : ∀ t, Within P t (k t)) : Within P s (storeMode m v s k) :=
  .withEA fun _ => .storing T S h

theorem Within.modifyAt (T : Tracks P) (S : ∀ s a v, P s (s.storeByte a v)) {ea : Word} {f : Byte → Byte}
    {g : Byte → State → State} (h : ∀ v t, P t (g v t)) : Within P s (modifyAt ea f g s) :=
  .withByte fun v => .storing T S fun t => h v t

theorem Within.modifyMode (T : Tracks P) (S : ∀ s a v, P s (s.storeByte a v)) {m : Mode} {f : Byte → Byte}
    {g : Byte → State → State} (h : ∀ v t, P t (g v t)) : Within P s (modifyMode m f g s) :=
  .withEA fun _ => .modifyAt T S h

/-! ## The stack, exception entry and return -/

theorem Within.push8 (T : Tracks P) (S : ∀ s a v, P s (s.storeByte a v)) (Q : ∀ (s : State) v, P s { s with sp := v })
    {v : Byte} {k : State → Outcome} (h : ∀ t, Within P t (k t)) : Within P s (push8 s v k) :=
  .storing T S fun t => .after T (Q t _) (h _)

theorem Within.pop8 (T : Tracks P) (Q : ∀ (s : State) v, P s { s with sp := v }) {k : Byte → State → Outcome}
    (h : ∀ v t, Within P t (k v t)) : Within P s (pop8 s k) :=
  .withByte fun v => .after T (Q s _) (h v _)

theorem Within.pushPC (T : Tracks P) (S : ∀ s a v, P s (s.storeByte a v)) (Q : ∀ (s : State) v, P s { s with sp := v })
    {k : State → Outcome} (h : ∀ t, Within P t (k t)) : Within P s (pushPC s k) :=
  .push8 T S Q fun _ => .push8 T S Q h

theorem Within.popPC (T : Tracks P) (Q : ∀ (s : State) v, P s { s with sp := v })
    (C : ∀ (s : State) v, P s { s with pc := v }) {k : State → Outcome} (h : ∀ t, Within P t (k t)) :
    Within P s (popPC s k) :=
  .pop8 T Q fun _ _ => .pop8 T Q fun _ t => .after T (C t _) (h _)

theorem Within.enterHandler (T : Tracks P) (S : ∀ s a v, P s (s.storeByte a v))
    (Q : ∀ (s : State) v, P s { s with sp := v }) (C : ∀ (s : State) v, P s { s with pc := v })
    (F : ∀ s : State, P s (s.setFlag .i false)) {vector : Word} {ack : State → State} (A : ∀ s, P s (ack s)) :
    Within P s (enterHandler vector ack s) :=
  .pushPC T S Q fun _ => .push8 T S Q fun t =>
    .after T (T.trans (F t) (A _)) (.withPair fun w => C (ack (t.setFlag .i false)) w)

end Sys2Proof.Machine
end

