-- ==== Sys2Proof/Laws/PerInstr.lean ====
section
/-! SUPPORT. Statements for all instructions, made per instruction: one lemma for each constructor of Instr. -/

/-- R50: "The first byte is the op code; it alone decides the length": the encoder writes as many bytes as the
first one selects, at least one and at most three. -/
def Sys2Proof.Laws.EncodedLength.Statement (i : Sys2Proof.Instr) : Prop :=
  (Sys2Proof.encode i).length = Sys2Proof.instrLength ((Sys2Proof.encode i).headD 0) ∧
    1 ≤ (Sys2Proof.encode i).length ∧ (Sys2Proof.encode i).length ≤ 3

namespace Sys2Proof.Laws.EncodedLength

open Sys2Proof

/-- An instruction whose first byte is known: its bytes are as many as the opcode map gives that op code. -/
theorem of_opcode {i : Instr} (n : Nat) (op : Byte) (hn : (encode i).length = n) (hop : (encode i).headD 0 = op)
    (hl : instrLength op = n) (hr : Nat.ble 1 n && Nat.ble n 3) : Statement i := by
  simp only [Bool.and_eq_true, Nat.ble_eq] at hr
  unfold Statement
  rw [hop, hl, hn]
  exact ⟨rfl, hr⟩

theorem adcImm (imm : Byte) : Statement (.adcImm imm) := of_opcode 2 0x04 rfl rfl rfl rfl
theorem adcDp (dp : Byte) : Statement (.adcDp dp) := of_opcode 2 0x05 rfl rfl rfl rfl
theorem adcDpX (dp : Byte) : Statement (.adcDpX dp) := of_opcode 2 0x06 rfl rfl rfl rfl
theorem adcAbs (addr : Word) : Statement (.adcAbs addr) := of_opcode 3 0x07 rfl rfl rfl rfl
theorem adcIndX : Statement .adcIndX := of_opcode 1 0x14 rfl rfl rfl rfl
theorem adcAbsY (addr : Word) : Statement (.adcAbsY addr) := of_opcode 3 0x15 rfl rfl rfl rfl
theorem adcIndDpX (dp : Byte) : Statement (.adcIndDpX dp) := of_opcode 2 0x16 rfl rfl rfl rfl
theorem adcIndDpY (dp : Byte) : Statement (.adcIndDpY dp) := of_opcode 2 0x17 rfl rfl rfl rfl
theorem sbcImm (imm : Byte) : Statement (.sbcImm imm) := of_opcode 2 0x24 rfl rfl rfl rfl
theorem sbcDp (dp : Byte) : Statement (.sbcDp dp) := of_opcode 2 0x25 rfl rfl rfl rfl
theorem sbcDpX (dp : Byte) : Statement (.sbcDpX dp) := of_opcode 2 0x26 rfl rfl rfl rfl
theorem sbcAbs (addr : Word) : Statement (.sbcAbs addr) := of_opcode 3 0x27 rfl rfl rfl rfl
theorem sbcIndX : Statement .sbcIndX := of_opcode 1 0x34 rfl rfl rfl rfl
theorem sbcAbsY (addr : Word) : Statement (.sbcAbsY addr) := of_opcode 3 0x35 rfl rfl rfl rfl
theorem sbcIndDpX (dp : Byte) : Statement (.sbcIndDpX dp) := of_opcode 2 0x36 rfl rfl rfl rfl
theorem sbcIndDpY (dp : Byte) : Statement (.sbcIndDpY dp) := of_opcode 2 0x37 rfl rfl rfl rfl
theorem cmpImm (imm : Byte) : Statement (.cmpImm imm) := of_opcode 2 0x44 rfl rfl rfl rfl
theorem cmpDp (dp : Byte) : Statement (.cmpDp dp) := of_opcode 2 0x45 rfl rfl rfl rfl
theorem cmpDpX (dp : Byte) : Statement (.cmpDpX dp) := of_opcode 2 0x46 rfl rfl rfl rfl
theorem cmpAbs (addr : Word) : Statement (.cmpAbs addr) := of_opcode 3 0x47 rfl rfl rfl rfl
theorem cmpIndX : Statement .cmpIndX := of_opcode 1 0x54 rfl rfl rfl rfl
theorem cmpAbsY (addr : Word) : Statement (.cmpAbsY addr) := of_opcode 3 0x55 rfl rfl rfl rfl
theorem cmpIndDpX (dp : Byte) : Statement (.cmpIndDpX dp) := of_opcode 2 0x56 rfl rfl rfl rfl
theorem cmpIndDpY (dp : Byte) : Statement (.cmpIndDpY dp) := of_opcode 2 0x57 rfl rfl rfl rfl
theorem orImm (imm : Byte) : Statement (.orImm imm) := of_opcode 2 0x64 rfl rfl rfl rfl
theorem orDp (dp : Byte) : Statement (.orDp dp) := of_opcode 2 0x65 rfl rfl rfl rfl
theorem orDpX (dp : Byte) : Statement (.orDpX dp) := of_opcode 2 0x66 rfl rfl rfl rfl
theorem orAbs (addr : Word) : Statement (.orAbs addr) := of_opcode 3 0x67 rfl rfl rfl rfl
theorem orIndX : Statement .orIndX := of_opcode 1 0x74 rfl rfl rfl rfl
theorem orAbsY (addr : Word) : Statement (.orAbsY addr) := of_opcode 3 0x75 rfl rfl rfl rfl
theorem orIndDpX (dp : Byte) : Statement (.orIndDpX dp) := of_opcode 2 0x76 rfl rfl rfl rfl
theorem orIndDpY (dp : Byte) : Statement (.orIndDpY dp) := of_opcode 2 0x77 rfl rfl rfl rfl
theorem andImm (imm : Byte) : Statement (.andImm imm) := of_opcode 2 0x84 rfl rfl rfl rfl
theorem andDp (dp : Byte) : Statement (.andDp dp) := of_opcode 2 0x85 rfl rfl rfl rfl
theorem andDpX (dp : Byte) : Statement (.andDpX dp) := of_opcode 2 0x86 rfl rfl rfl rfl
theorem andAbs (addr : Word) : Statement (.andAbs addr) := of_opcode 3 0x87 rfl rfl rfl rfl
theorem andIndX : Statement .andIndX := of_opcode 1 0x94 rfl rfl rfl rfl
theorem andAbsY (addr : Word) : Statement (.andAbsY addr) := of_opcode 3 0x95 rfl rfl rfl rfl
theorem andIndDpX (dp : Byte) : Statement (.andIndDpX dp) := of_opcode 2 0x96 rfl rfl rfl rfl
theorem andIndDpY (dp : Byte) : Statement (.andIndDpY dp) := of_opcode 2 0x97 rfl rfl rfl rfl
theorem eorImm (imm : Byte) : Statement (.eorImm imm) := of_opcode 2 0xA4 rfl rfl rfl rfl
theorem eorDp (dp : Byte) : Statement (.eorDp dp) := of_opcode 2 0xA5 rfl rfl rfl rfl
theorem eorDpX (dp : Byte) : Statement (.eorDpX dp) := of_opcode 2 0xA6 rfl rfl rfl rfl
theorem eorAbs (addr : Word) : Statement (.eorAbs addr) := of_opcode 3 0xA7 rfl rfl rfl rfl
theorem eorIndX : Statement .eorIndX := of_opcode 1 0xB4 rfl rfl rfl rfl
theorem eorAbsY (addr : Word) : Statement (.eorAbsY addr) := of_opcode 3 0xB5 rfl rfl rfl rfl
theorem eorIndDpX (dp : Byte) : Statement (.eorIndDpX dp) := of_opcode 2 0xB6 rfl rfl rfl rfl
theorem eorIndDpY (dp : Byte) : Statement (.eorIndDpY dp) := of_opcode 2 0xB7 rfl rfl rfl rfl
theorem ldaImm (imm : Byte) : Statement (.ldaImm imm) := of_opcode 2 0xC4 rfl rfl rfl rfl
theorem ldaDp (dp : Byte) : Statement (.ldaDp dp) := of_opcode 2 0xC5 rfl rfl rfl rfl
theorem ldaDpX (dp : Byte) : Statement (.ldaDpX dp) := of_opcode 2 0xC6 rfl rfl rfl rfl
theorem ldaAbs (addr : Word) : Statement (.ldaAbs addr) := of_opcode 3 0xC7 rfl rfl rfl rfl
theorem ldaIndX : Statement .ldaIndX := of_opcode 1 0xD4 rfl rfl rfl rfl
theorem ldaAbsY (addr : Word) : Statement (.ldaAbsY addr) := of_opcode 3 0xD5 rfl rfl rfl rfl
theorem ldaIndDpX (dp : Byte) : Statement (.ldaIndDpX dp) := of_opcode 2 0xD6 rfl rfl rfl rfl
theorem ldaIndDpY (dp : Byte) : Statement (.ldaIndDpY dp) := of_opcode 2 0xD7 rfl rfl rfl rfl
theorem staDp (dp : Byte) : Statement (.staDp dp) := of_opcode 2 0xE5 rfl rfl rfl rfl
theorem staDpX (dp : Byte) : Statement (.staDpX dp) := of_opcode 2 0xE6 rfl rfl rfl rfl
theorem staAbs (addr : Word) : Statement (.staAbs addr) := of_opcode 3 0xE7 rfl rfl rfl rfl
theorem staIndX : Statement .staIndX := of_opcode 1 0xF4 rfl rfl rfl rfl
theorem staAbsY (addr : Word) : Statement (.staAbsY addr) := of_opcode 3 0xF5 rfl rfl rfl rfl
theorem staIndDpX (dp : Byte) : Statement (.staIndDpX dp) := of_opcode 2 0xF6 rfl rfl rfl rfl
theorem staIndDpY (dp : Byte) : Statement (.staIndDpY dp) := of_opcode 2 0xF7 rfl rfl rfl rfl
theorem ldm (imm : Byte) (dp : Byte) : Statement (.ldm imm dp) := of_opcode 3 0xE4 rfl rfl rfl rfl
theorem ldaIndXInc : Statement .ldaIndXInc := of_opcode 1 0xDB rfl rfl rfl rfl
theorem staIndXInc : Statement .staIndXInc := of_opcode 1 0xFB rfl rfl rfl rfl
theorem aslA : Statement .aslA := of_opcode 1 0x08 rfl rfl rfl rfl
theorem aslDp (dp : Byte) : Statement (.aslDp dp) := of_opcode 2 0x09 rfl rfl rfl rfl
theorem aslAbs (addr : Word) : Statement (.aslAbs addr) := of_opcode 3 0x18 rfl rfl rfl rfl
theorem aslDpX (dp : Byte) : Statement (.aslDpX dp) := of_opcode 2 0x19 rfl rfl rfl rfl
theorem rolA : Statement .rolA := of_opcode 1 0x28 rfl rfl rfl rfl
theorem rolDp (dp : Byte) : Statement (.rolDp dp) := of_opcode 2 0x29 rfl rfl rfl rfl
theorem rolAbs (addr : Word) : Statement (.rolAbs addr) := of_opcode 3 0x38 rfl rfl rfl rfl
theorem rolDpX (dp : Byte) : Statement (.rolDpX dp) := of_opcode 2 0x39 rfl rfl rfl rfl
theorem lsrA : Statement .lsrA := of_opcode 1 0x48 rfl rfl rfl rfl
theorem lsrDp (dp : Byte) : Statement (.lsrDp dp) := of_opcode 2 0x49 rfl rfl rfl rfl
theorem lsrAbs (addr : Word) : Statement (.lsrAbs addr) := of_opcode 3 0x58 rfl rfl rfl rfl
theorem lsrDpX (dp : Byte) : Statement (.lsrDpX dp) := of_opcode 2 0x59 rfl rfl rfl rfl
theorem rorA : Statement .rorA := of_opcode 1 0x68 rfl rfl rfl rfl
theorem rorDp (dp : Byte) : Statement (.rorDp dp) := of_opcode 2 0x69 rfl rfl rfl rfl
theorem rorAbs (addr : Word) : Statement (.rorAbs addr) := of_opcode 3 0x78 rfl rfl rfl rfl
theorem rorDpX (dp : Byte) : Statement (.rorDpX dp) := of_opcode 2 0x79 rfl rfl rfl rfl
theorem incA : Statement .incA := of_opcode 1 0x88 rfl rfl rfl rfl
theorem incDp (dp : Byte) : Statement (.incDp dp) := of_opcode 2 0x89 rfl rfl rfl rfl
theorem incAbs (addr : Word) : Statement (.incAbs addr) := of_opcode 3 0x98 rfl rfl rfl rfl
theorem incDpX (dp : Byte) : Statement (.incDpX dp) := of_opcode 2 0x99 rfl rfl rfl rfl
theorem decA : Statement .decA := of_opcode 1 0xA8 rfl rfl rfl rfl
theorem decDp (dp : Byte) : Statement (.decDp dp) := of_opcode 2 0xA9 rfl rfl rfl rfl
theorem decAbs (addr : Word) : Statement (.decAbs addr) := of_opcode 3 0xB8 rfl rfl rfl rfl
theorem decDpX (dp : Byte) : Statement (.decDpX dp) := of_opcode 2 0xB9 rfl rfl rfl rfl
theorem incX : Statement .incX := of_opcode 1 0x8F rfl rfl rfl rfl
theorem decX : Statement .decX := of_opcode 1 0xAF rfl rfl rfl rfl
theorem incY : Statement .incY := of_opcode 1 0x9E rfl rfl rfl rfl
theorem decY : Statement .decY := of_opcode 1 0xBE rfl rfl rfl rfl
theorem ldyImm (imm : Byte) : Statement (.ldyImm imm) := of_opcode 2 0x3E rfl rfl rfl rfl
theorem ldyDp (dp : Byte) : Statement (.ldyDp dp) := of_opcode 2 0xC9 rfl rfl rfl rfl
theorem ldyAbs (addr : Word) : Statement (.ldyAbs addr) := of_opcode 3 0xD8 rfl rfl rfl rfl
theorem ldyDpX (dp : Byte) : Statement (.ldyDpX dp) := of_opcode 2 0xD9 rfl rfl rfl rfl
theorem styDp (dp : Byte) : Statement (.styDp dp) := of_opcode 2 0xE9 rfl rfl rfl rfl
theorem styAbs (addr : Word) : Statement (.styAbs addr) := of_opcode 3 0xF8 rfl rfl rfl rfl
theorem styDpX (dp : Byte) : Statement (.styDpX dp) := of_opcode 2 0xF9 rfl rfl rfl rfl
theorem ldxImm (imm : Byte) : Statement (.ldxImm imm) := of_opcode 2 0x1E rfl rfl rfl rfl
theorem ldxDp (dp : Byte) : Statement (.ldxDp dp) := of_opcode 2 0xCC rfl rfl rfl rfl
theorem ldxDpY (dp : Byte) : Statement (.ldxDpY dp) := of_opcode 2 0xCD rfl rfl rfl rfl
theorem ldxAbs (addr : Word) : Statement (.ldxAbs addr) := of_opcode 3 0xDC rfl rfl rfl rfl
theorem stxDp (dp : Byte) : Statement (.stxDp dp) := of_opcode 2 0xEC rfl rfl rfl rfl
theorem stxDpY (dp : Byte) : Statement (.stxDpY dp) := of_opcode 2 0xED rfl rfl rfl rfl
theorem stxAbs (addr : Word) : Statement (.stxAbs addr) := of_opcode 3 0xFC rfl rfl rfl rfl
theorem cmpxImm (imm : Byte) : Statement (.cmpxImm imm) := of_opcode 2 0x5E rfl rfl rfl rfl
theorem cmpxDp (dp : Byte) : Statement (.cmpxDp dp) := of_opcode 2 0x6C rfl rfl rfl rfl
theorem cmpxAbs (addr : Word) : Statement (.cmpxAbs addr) := of_opcode 3 0x7C rfl rfl rfl rfl
theorem cmpyImm (imm : Byte) : Statement (.cmpyImm imm) := of_opcode 2 0x7E rfl rfl rfl rfl
theorem cmpyDp (dp : Byte) : Statement (.cmpyDp dp) := of_opcode 2 0x8C rfl rfl rfl rfl
theorem cmpyAbs (addr : Word) : Statement (.cmpyAbs addr) := of_opcode 3 0x9C rfl rfl rfl rfl
theorem bitDp (dp : Byte) : Statement (.bitDp dp) := of_opcode 2 0x0C rfl rfl rfl rfl
theorem bitAbs (addr : Word) : Statement (.bitAbs addr) := of_opcode 3 0x1C rfl rfl rfl rfl
theorem com (dp : Byte) : Statement (.com dp) := of_opcode 2 0x2C rfl rfl rfl rfl
theorem tst (dp : Byte) : Statement (.tst dp) := of_opcode 2 0x4C rfl rfl rfl rfl
theorem tset1 (addr : Word) : Statement (.tset1 addr) := of_opcode 3 0x3C rfl rfl rfl rfl
theorem tclr1 (addr : Word) : Statement (.tclr1 addr) := of_opcode 3 0x5C rfl rfl rfl rfl
theorem dbneDp (dp : Byte) (rel : Byte) : Statement (.dbneDp dp rel) := of_opcode 3 0xAC rfl rfl rfl rfl
theorem dbneY (rel : Byte) : Statement (.dbneY rel) := of_opcode 2 0x7B rfl rfl rfl rfl
theorem cbneDp (dp : Byte) (rel : Byte) : Statement (.cbneDp dp rel) := of_opcode 3 0xFD rfl rfl rfl rfl
theorem cbneDpX (dp : Byte) (rel : Byte) : Statement (.cbneDpX dp rel) := of_opcode 3 0x8D rfl rfl rfl rfl
theorem xmaDp (dp : Byte) : Statement (.xmaDp dp) := of_opcode 2 0xBC rfl rfl rfl rfl
theorem xmaDpX (dp : Byte) : Statement (.xmaDpX dp) := of_opcode 2 0xAD rfl rfl rfl rfl
theorem xmaIndX : Statement .xmaIndX := of_opcode 1 0xBB rfl rfl rfl rfl
theorem popA : Statement .popA := of_opcode 1 0x0D rfl rfl rfl rfl
theorem popX : Statement .popX := of_opcode 1 0x2D rfl rfl rfl rfl
theorem popY : Statement .popY := of_opcode 1 0x4D rfl rfl rfl rfl
theorem popPsw : Statement .popPsw := of_opcode 1 0x6D rfl rfl rfl rfl
theorem pushA : Statement .pushA := of_opcode 1 0x0E rfl rfl rfl rfl
theorem pushX : Statement .pushX := of_opcode 1 0x2E rfl rfl rfl rfl
theorem pushY : Statement .pushY := of_opcode 1 0x4E rfl rfl rfl rfl
theorem pushPsw : Statement .pushPsw := of_opcode 1 0x6E rfl rfl rfl rfl
theorem txsp : Statement .txsp := of_opcode 1 0x8E rfl rfl rfl rfl
theorem tspx : Statement .tspx := of_opcode 1 0xAE rfl rfl rfl rfl
theorem xcn : Statement .xcn := of_opcode 1 0xCE rfl rfl rfl rfl
theorem xax : Statement .xax := of_opcode 1 0xEE rfl rfl rfl rfl
theorem xay : Statement .xay := of_opcode 1 0xDE rfl rfl rfl rfl
theorem xyx : Statement .xyx := of_opcode 1 0xFE rfl rfl rfl rfl
theorem brk : Statement .brk := of_opcode 1 0x0F rfl rfl rfl rfl
theorem ret : Statement .ret := of_opcode 1 0x6F rfl rfl rfl rfl
theorem das : Statement .das := of_opcode 1 0xCF rfl rfl rfl rfl
theorem stop : Statement .stop := of_opcode 1 0xEF rfl rfl rfl rfl
theorem reti : Statement .reti := of_opcode 1 0x7F rfl rfl rfl rfl
theorem tay : Statement .tay := of_opcode 1 0x9F rfl rfl rfl rfl
theorem tya : Statement .tya := of_opcode 1 0xBF rfl rfl rfl rfl
theorem daa : Statement .daa := of_opcode 1 0xDF rfl rfl rfl rfl
theorem nop : Statement .nop := of_opcode 1 0xFF rfl rfl rfl rfl
theorem clrc : Statement .clrc := of_opcode 1 0x20 rfl rfl rfl rfl
theorem clrg : Statement .clrg := of_opcode 1 0x40 rfl rfl rfl rfl
theorem di : Statement .di := of_opcode 1 0x60 rfl rfl rfl rfl
theorem clrv : Statement .clrv := of_opcode 1 0x80 rfl rfl rfl rfl
theorem setc : Statement .setc := of_opcode 1 0xA0 rfl rfl rfl rfl
theorem setg : Statement .setg := of_opcode 1 0xC0 rfl rfl rfl rfl
theorem ei : Statement .ei := of_opcode 1 0xE0 rfl rfl rfl rfl
theorem txa : Statement .txa := of_opcode 1 0xC8 rfl rfl rfl rfl
theorem tax : Statement .tax := of_opcode 1 0xE8 rfl rfl rfl rfl
theorem mul : Statement .mul := of_opcode 1 0x5B rfl rfl rfl rfl
theorem div : Statement .div := of_opcode 1 0x9B rfl rfl rfl rfl
theorem bra (rel : Byte) : Statement (.bra rel) := of_opcode 2 0x2F rfl rfl rfl rfl
theorem bpl (rel : Byte) : Statement (.bpl rel) := of_opcode 2 0x10 rfl rfl rfl rfl
theorem bvc (rel : Byte) : Statement (.bvc rel) := of_opcode 2 0x30 rfl rfl rfl rfl
theorem bcc (rel : Byte) : Statement (.bcc rel) := of_opcode 2 0x50 rfl rfl rfl rfl
theorem bne (rel : Byte) : Statement (.bne rel) := of_opcode 2 0x70 rfl rfl rfl rfl
theorem bmi (rel : Byte) : Statement (.bmi rel) := of_opcode 2 0x90 rfl rfl rfl rfl
theorem bvs (rel : Byte) : Statement (.bvs rel) := of_opcode 2 0xB0 rfl rfl rfl rfl
theorem bcs (rel : Byte) : Statement (.bcs rel) := of_opcode 2 0xD0 rfl rfl rfl rfl
theorem beq (rel : Byte) : Statement (.beq rel) := of_opcode 2 0xF0 rfl rfl rfl rfl
theorem pcall (u : Byte) : Statement (.pcall u) := of_opcode 2 0x4F rfl rfl rfl rfl
theorem jmpAbs (addr : Word) : Statement (.jmpAbs addr) := of_opcode 3 0x1B rfl rfl rfl rfl
theorem jmpIndAbs (addr : Word) : Statement (.jmpIndAbs addr) := of_opcode 3 0x1F rfl rfl rfl rfl
theorem jmpIndDp (dp : Byte) : Statement (.jmpIndDp dp) := of_opcode 2 0x3F rfl rfl rfl rfl
theorem callAbs (addr : Word) : Statement (.callAbs addr) := of_opcode 3 0x3B rfl rfl rfl rfl
theorem callIndDp (dp : Byte) : Statement (.callIndDp dp) := of_opcode 2 0x5F rfl rfl rfl rfl
theorem addw (dp : Byte) : Statement (.addw dp) := of_opcode 2 0x1D rfl rfl rfl rfl
theorem subw (dp : Byte) : Statement (.subw dp) := of_opcode 2 0x3D rfl rfl rfl rfl
theorem cmpw (dp : Byte) : Statement (.cmpw dp) := of_opcode 2 0x5D rfl rfl rfl rfl
theorem ldya (dp : Byte) : Statement (.ldya dp) := of_opcode 2 0x7D rfl rfl rfl rfl
theorem incw (dp : Byte) : Statement (.incw dp) := of_opcode 2 0x9D rfl rfl rfl rfl
theorem decw (dp : Byte) : Statement (.decw dp) := of_opcode 2 0xBD rfl rfl rfl rfl
theorem stya (dp : Byte) : Statement (.stya dp) := of_opcode 2 0xDD rfl rfl rfl rfl
theorem set1 (b : BitNo) (dp : Byte) : Statement (.set1 b dp) := of_opcode 2 (bitOp 0x01 b) rfl rfl (instrLength_bitOp_two b 0x01 (by decide)) rfl
theorem clr1 (b : BitNo) (dp : Byte) : Statement (.clr1 b dp) := of_opcode 2 (bitOp 0x11 b) rfl rfl (instrLength_bitOp_two b 0x11 (by decide)) rfl
theorem bbsA (b : BitNo) (rel : Byte) : Statement (.bbsA b rel) := of_opcode 2 (bitOp 0x02 b) rfl rfl (instrLength_bitOp_two b 0x02 (by decide)) rfl
theorem bbsDp (b : BitNo) (dp : Byte) (rel : Byte) : Statement (.bbsDp b dp rel) := of_opcode 3 (bitOp 0x03 b) rfl rfl (instrLength_bitOp_three b 0x03 (by decide)) rfl
theorem bbcA (b : BitNo) (rel : Byte) : Statement (.bbcA b rel) := of_opcode 2 (bitOp 0x12 b) rfl rfl (instrLength_bitOp_two b 0x12 (by decide)) rfl
theorem bbcDp (b : BitNo) (dp : Byte) (rel : Byte) : Statement (.bbcDp b dp rel) := of_opcode 3 (bitOp 0x13 b) rfl rfl (instrLength_bitOp_three b 0x13 (by decide)) rfl
theorem tcall (n : TableNo) : Statement (.tcall n) := of_opcode 1 (n ++ 0xA#4) rfl rfl (instrLength_tcall n) rfl
theorem seta1 (b : BitNo) : Statement (.seta1 b) := of_opcode 2 0x0B rfl rfl rfl rfl
theorem clra1 (b : BitNo) : Statement (.clra1 b) := of_opcode 2 0x2B rfl rfl rfl rfl
theorem not1 (addr : Word) (b : BitNo) : Statement (.not1 addr b) := of_opcode 3 0x4B rfl rfl rfl rfl
theorem or1 (addr : Word) (b : BitNo) : Statement (.or1 addr b) := of_opcode 3 0x6B rfl rfl rfl rfl
theorem or1b (addr : Word) (b : BitNo) : Statement (.or1b addr b) := of_opcode 3 0x6B rfl rfl rfl rfl
theorem and1 (addr : Word) (b : BitNo) : Statement (.and1 addr b) := of_opcode 3 0x8B rfl rfl rfl rfl
theorem and1b (addr : Word) (b : BitNo) : Statement (.and1b addr b) := of_opcode 3 0x8B rfl rfl rfl rfl
theorem eor1 (addr : Word) (b : BitNo) : Statement (.eor1 addr b) := of_opcode 3 0xAB rfl rfl rfl rfl
theorem eor1b (addr : Word) (b : BitNo) : Statement (.eor1b addr b) := of_opcode 3 0xAB rfl rfl rfl rfl
theorem ldc (addr : Word) (b : BitNo) : Statement (.ldc addr b) := of_opcode 3 0xCB rfl rfl rfl rfl
theorem ldcb (addr : Word) (b : BitNo) : Statement (.ldcb addr b) := of_opcode 3 0xCB rfl rfl rfl rfl
theorem stc (addr : Word) (b : BitNo) : Statement (.stc addr b) := of_opcode 3 0xEB rfl rfl rfl rfl

end Sys2Proof.Laws.EncodedLength
end

