-- ==== Sys2Proof/Tests/Slice0.lean ====
section
/-! SUPPORT. The model's own tests: refused terms, decoded words, one step for each instruction, and a witness for the
hypotheses of each statement. Expected results are those of 95_test_vectors.md or of the rule named. -/

namespace Sys2Proof.Tests

open Sys2Proof Sys2Proof.Machine

/-- The state with bytes placed at `p` and PC there. -/
def place (p : Word) (bytes : List Byte) (s : State) : State := { s.placeBytes p bytes with pc := p }

/-- One step of the instruction placed at `p`. -/
def run (p : Word) (bytes : List Byte) (s : State) : Outcome := step (place p bytes s)

/-- A view of the next state. -/
def after {α : Type} (o : Outcome) (view : State → α) : Option α :=
  match o with
  | .next t => some (view t)
  | _ => none

/-- The fault of an outcome. -/
def stop (o : Outcome) : Option Fault :=
  match o with
  | .fault f => some f
  | _ => none

/-- The bytes are this instruction and nothing more. -/
def reads (bytes : List Byte) (i : Instr) : Bool :=
  match decode bytes with
  | .ok (j, rest) => decide (j = i) && rest.isEmpty
  | .error _ => false

/-! ## Ill-formed terms (WellFormed): an `M.bit` address above 0FFFh (R91) -/

theorem test_wf_not1 : Instr.wellFormed (.not1 0x1000 0) = false ∧ Instr.wellFormed (.not1 0x0FFF 7) = true := by decide

theorem test_wf_or1 : Instr.wellFormed (.or1 0x1000 0) = false ∧ Instr.wellFormed (.or1 0x0FFF 7) = true := by decide

theorem test_wf_or1b : Instr.wellFormed (.or1b 0x1000 0) = false ∧ Instr.wellFormed (.or1b 0x0FFF 7) = true := by decide

theorem test_wf_and1 : Instr.wellFormed (.and1 0x1000 0) = false ∧ Instr.wellFormed (.and1 0x0FFF 7) = true := by decide

theorem test_wf_and1b : Instr.wellFormed (.and1b 0x1000 0) = false ∧ Instr.wellFormed (.and1b 0x0FFF 7) = true := by decide

theorem test_wf_eor1 : Instr.wellFormed (.eor1 0x1000 0) = false ∧ Instr.wellFormed (.eor1 0x0FFF 7) = true := by decide

theorem test_wf_eor1b : Instr.wellFormed (.eor1b 0x1000 0) = false ∧ Instr.wellFormed (.eor1b 0x0FFF 7) = true := by decide

theorem test_wf_ldc : Instr.wellFormed (.ldc 0x1000 0) = false ∧ Instr.wellFormed (.ldc 0x0FFF 7) = true := by decide

theorem test_wf_ldcb : Instr.wellFormed (.ldcb 0x1000 0) = false ∧ Instr.wellFormed (.ldcb 0x0FFF 7) = true := by decide

theorem test_wf_stc : Instr.wellFormed (.stc 0x1000 0) = false ∧ Instr.wellFormed (.stc 0x0FFF 7) = true := by decide

/-! ## Decoding: every constructor, its op code written out bit by bit from the opcode map (R58) -/

theorem test_decode_adc_sbc :
    (reads [0b00000100, 0x5A] (.adcImm 0x5A) && reads [0b00000101, 0x35] (.adcDp 0x35) &&
    reads [0b00000110, 0x35] (.adcDpX 0x35) && reads [0b00000111, 0x34, 0xD2] (.adcAbs 0xD234) &&
    reads [0b00010100] .adcIndX && reads [0b00010101, 0x34, 0xD2] (.adcAbsY 0xD234) &&
    reads [0b00010110, 0x35] (.adcIndDpX 0x35) && reads [0b00010111, 0x35] (.adcIndDpY 0x35) &&
    reads [0b00100100, 0x5A] (.sbcImm 0x5A) && reads [0b00100101, 0x35] (.sbcDp 0x35) &&
    reads [0b00100110, 0x35] (.sbcDpX 0x35) && reads [0b00100111, 0x34, 0xD2] (.sbcAbs 0xD234) &&
    reads [0b00110100] .sbcIndX && reads [0b00110101, 0x34, 0xD2] (.sbcAbsY 0xD234) &&
    reads [0b00110110, 0x35] (.sbcIndDpX 0x35) && reads [0b00110111, 0x35] (.sbcIndDpY 0x35)) = true := by
  decide

theorem test_decode_cmp_or :
    (reads [0b01000100, 0x5A] (.cmpImm 0x5A) && reads [0b01000101, 0x35] (.cmpDp 0x35) &&
    reads [0b01000110, 0x35] (.cmpDpX 0x35) && reads [0b01000111, 0x34, 0xD2] (.cmpAbs 0xD234) &&
    reads [0b01010100] .cmpIndX && reads [0b01010101, 0x34, 0xD2] (.cmpAbsY 0xD234) &&
    reads [0b01010110, 0x35] (.cmpIndDpX 0x35) && reads [0b01010111, 0x35] (.cmpIndDpY 0x35) &&
    reads [0b01100100, 0x5A] (.orImm 0x5A) && reads [0b01100101, 0x35] (.orDp 0x35) &&
    reads [0b01100110, 0x35] (.orDpX 0x35) && reads [0b01100111, 0x34, 0xD2] (.orAbs 0xD234) &&
    reads [0b01110100] .orIndX && reads [0b01110101, 0x34, 0xD2] (.orAbsY 0xD234) &&
    reads [0b01110110, 0x35] (.orIndDpX 0x35) && reads [0b01110111, 0x35] (.orIndDpY 0x35)) = true := by
  decide

theorem test_decode_and_eor :
    (reads [0b10000100, 0x5A] (.andImm 0x5A) && reads [0b10000101, 0x35] (.andDp 0x35) &&
    reads [0b10000110, 0x35] (.andDpX 0x35) && reads [0b10000111, 0x34, 0xD2] (.andAbs 0xD234) &&
    reads [0b10010100] .andIndX && reads [0b10010101, 0x34, 0xD2] (.andAbsY 0xD234) &&
    reads [0b10010110, 0x35] (.andIndDpX 0x35) && reads [0b10010111, 0x35] (.andIndDpY 0x35) &&
    reads [0b10100100, 0x5A] (.eorImm 0x5A) && reads [0b10100101, 0x35] (.eorDp 0x35) &&
    reads [0b10100110, 0x35] (.eorDpX 0x35) && reads [0b10100111, 0x34, 0xD2] (.eorAbs 0xD234) &&
    reads [0b10110100] .eorIndX && reads [0b10110101, 0x34, 0xD2] (.eorAbsY 0xD234) &&
    reads [0b10110110, 0x35] (.eorIndDpX 0x35) && reads [0b10110111, 0x35] (.eorIndDpY 0x35)) = true := by
  decide

theorem test_decode_loads :
    (reads [0b11000100, 0x5A] (.ldaImm 0x5A) && reads [0b11000101, 0x35] (.ldaDp 0x35) &&
    reads [0b11000110, 0x35] (.ldaDpX 0x35) && reads [0b11000111, 0x34, 0xD2] (.ldaAbs 0xD234) &&
    reads [0b11010100] .ldaIndX && reads [0b11010101, 0x34, 0xD2] (.ldaAbsY 0xD234) &&
    reads [0b11010110, 0x35] (.ldaIndDpX 0x35) && reads [0b11010111, 0x35] (.ldaIndDpY 0x35) &&
    reads [0b11100100, 0x5A, 0x35] (.ldm 0x5A 0x35) && reads [0b11011011] .ldaIndXInc &&
    reads [0b00111110, 0x5A] (.ldyImm 0x5A) && reads [0b11001001, 0x35] (.ldyDp 0x35) &&
    reads [0b11011000, 0x34, 0xD2] (.ldyAbs 0xD234) && reads [0b11011001, 0x35] (.ldyDpX 0x35) &&
    reads [0b00011110, 0x5A] (.ldxImm 0x5A) && reads [0b11001100, 0x35] (.ldxDp 0x35) &&
    reads [0b11001101, 0x35] (.ldxDpY 0x35) && reads [0b11011100, 0x34, 0xD2] (.ldxAbs 0xD234)) = true := by
  decide

theorem test_decode_stores :
    (reads [0b11100101, 0x35] (.staDp 0x35) && reads [0b11100110, 0x35] (.staDpX 0x35) &&
    reads [0b11100111, 0x34, 0xD2] (.staAbs 0xD234) && reads [0b11110100] .staIndX &&
    reads [0b11110101, 0x34, 0xD2] (.staAbsY 0xD234) && reads [0b11110110, 0x35] (.staIndDpX 0x35) &&
    reads [0b11110111, 0x35] (.staIndDpY 0x35) && reads [0b11111011] .staIndXInc &&
    reads [0b11101001, 0x35] (.styDp 0x35) && reads [0b11111000, 0x34, 0xD2] (.styAbs 0xD234) &&
    reads [0b11111001, 0x35] (.styDpX 0x35) && reads [0b11101100, 0x35] (.stxDp 0x35) &&
    reads [0b11101101, 0x35] (.stxDpY 0x35) && reads [0b11111100, 0x34, 0xD2] (.stxAbs 0xD234)) = true := by
  decide

theorem test_decode_shifts :
    (reads [0b00001000] .aslA && reads [0b00001001, 0x35] (.aslDp 0x35) &&
    reads [0b00011000, 0x34, 0xD2] (.aslAbs 0xD234) && reads [0b00011001, 0x35] (.aslDpX 0x35) &&
    reads [0b00101000] .rolA && reads [0b00101001, 0x35] (.rolDp 0x35) &&
    reads [0b00111000, 0x34, 0xD2] (.rolAbs 0xD234) && reads [0b00111001, 0x35] (.rolDpX 0x35) &&
    reads [0b01001000] .lsrA && reads [0b01001001, 0x35] (.lsrDp 0x35) &&
    reads [0b01011000, 0x34, 0xD2] (.lsrAbs 0xD234) && reads [0b01011001, 0x35] (.lsrDpX 0x35) &&
    reads [0b01101000] .rorA && reads [0b01101001, 0x35] (.rorDp 0x35) &&
    reads [0b01111000, 0x34, 0xD2] (.rorAbs 0xD234) && reads [0b01111001, 0x35] (.rorDpX 0x35)) = true := by
  decide

theorem test_decode_inc_dec :
    (reads [0b10001000] .incA && reads [0b10001001, 0x35] (.incDp 0x35) &&
    reads [0b10011000, 0x34, 0xD2] (.incAbs 0xD234) && reads [0b10011001, 0x35] (.incDpX 0x35) &&
    reads [0b10101000] .decA && reads [0b10101001, 0x35] (.decDp 0x35) &&
    reads [0b10111000, 0x34, 0xD2] (.decAbs 0xD234) && reads [0b10111001, 0x35] (.decDpX 0x35) &&
    reads [0b10001111] .incX && reads [0b10101111] .decX && reads [0b10011110] .incY && reads [0b10111110] .decY) = true := by
  decide

theorem test_decode_compares :
    (reads [0b01011110, 0x5A] (.cmpxImm 0x5A) && reads [0b01101100, 0x35] (.cmpxDp 0x35) &&
    reads [0b01111100, 0x34, 0xD2] (.cmpxAbs 0xD234) && reads [0b01111110, 0x5A] (.cmpyImm 0x5A) &&
    reads [0b10001100, 0x35] (.cmpyDp 0x35) && reads [0b10011100, 0x34, 0xD2] (.cmpyAbs 0xD234) &&
    reads [0b00001100, 0x35] (.bitDp 0x35) && reads [0b00011100, 0x34, 0xD2] (.bitAbs 0xD234) &&
    reads [0b00101100, 0x35] (.com 0x35) && reads [0b01001100, 0x35] (.tst 0x35)) = true := by
  decide

theorem test_decode_exchange :
    (reads [0b10111100, 0x35] (.xmaDp 0x35) && reads [0b10101101, 0x35] (.xmaDpX 0x35) &&
    reads [0b10111011] .xmaIndX && reads [0b11001110] .xcn && reads [0b11101110] .xax &&
    reads [0b11011110] .xay && reads [0b11111110] .xyx) = true := by
  decide

theorem test_decode_transfer :
    (reads [0b10001110] .txsp && reads [0b10101110] .tspx && reads [0b10011111] .tay &&
    reads [0b10111111] .tya && reads [0b11001000] .txa && reads [0b11101000] .tax) = true := by
  decide

theorem test_decode_adjust :
    (reads [0b11001111] .das && reads [0b11011111] .daa && reads [0b01011011] .mul && reads [0b10011011] .div) = true := by
  decide

theorem test_decode_pairs :
    (reads [0b00011101, 0x35] (.addw 0x35) && reads [0b00111101, 0x35] (.subw 0x35) &&
    reads [0b01011101, 0x35] (.cmpw 0x35) && reads [0b01111101, 0x35] (.ldya 0x35) &&
    reads [0b10011101, 0x35] (.incw 0x35) && reads [0b10111101, 0x35] (.decw 0x35) &&
    reads [0b11011101, 0x35] (.stya 0x35)) = true := by
  decide

theorem test_decode_memory_bits :
    (reads [0b01001011, 0x34, 0b10101101] (.not1 0x0D34 5) &&
    reads [0b01101011, 0x34, 0b10001101] (.or1 0x0D34 4) &&
    reads [0b01101011, 0x34, 0b11111101] (.or1b 0x0D34 7) &&
    reads [0b10001011, 0x34, 0b11001101] (.and1 0x0D34 6) &&
    reads [0b10001011, 0x34, 0b00111101] (.and1b 0x0D34 1) &&
    reads [0b10101011, 0x34, 0b10101101] (.eor1 0x0D34 5) &&
    reads [0b10101011, 0x34, 0b10011101] (.eor1b 0x0D34 4) &&
    reads [0b11001011, 0x34, 0b11101101] (.ldc 0x0D34 7) &&
    reads [0b11001011, 0x34, 0b11011101] (.ldcb 0x0D34 6) &&
    reads [0b11101011, 0x34, 0b00101101] (.stc 0x0D34 1)) = true := by
  decide

theorem test_decode_set_bits :
    (reads [0b00111100, 0x34, 0xD2] (.tset1 0xD234) && reads [0b01011100, 0x34, 0xD2] (.tclr1 0xD234) &&
    reads [0b11100001, 0x35] (.set1 7 0x35) && reads [0b11010001, 0x35] (.clr1 6 0x35) &&
    reads [0b00001011, 0b00100000] (.seta1 1) && reads [0b00101011, 0b10100000] (.clra1 5)) = true := by
  decide

theorem test_decode_flags :
    (reads [0b00100000] .clrc && reads [0b01000000] .clrg && reads [0b01100000] .di &&
    reads [0b10000000] .clrv && reads [0b10100000] .setc && reads [0b11000000] .setg && reads [0b11100000] .ei) = true := by
  decide

theorem test_decode_bit_branches :
    (reads [0b11000010, 0xFE] (.bbsA 6 0xFE) && reads [0b00100011, 0x35, 0xFE] (.bbsDp 1 0x35 0xFE) &&
    reads [0b10110010, 0xFE] (.bbcA 5 0xFE) && reads [0b10010011, 0x35, 0xFE] (.bbcDp 4 0x35 0xFE)) = true := by
  decide

theorem test_decode_branches :
    (reads [0b10101100, 0x35, 0xFE] (.dbneDp 0x35 0xFE) && reads [0b01111011, 0xFE] (.dbneY 0xFE) &&
    reads [0b11111101, 0x35, 0xFE] (.cbneDp 0x35 0xFE) && reads [0b10001101, 0x35, 0xFE] (.cbneDpX 0x35 0xFE) &&
    reads [0b00101111, 0xFE] (.bra 0xFE) && reads [0b00010000, 0xFE] (.bpl 0xFE) &&
    reads [0b00110000, 0xFE] (.bvc 0xFE) && reads [0b01010000, 0xFE] (.bcc 0xFE) &&
    reads [0b01110000, 0xFE] (.bne 0xFE) && reads [0b10010000, 0xFE] (.bmi 0xFE) &&
    reads [0b10110000, 0xFE] (.bvs 0xFE) && reads [0b11010000, 0xFE] (.bcs 0xFE) &&
    reads [0b11110000, 0xFE] (.beq 0xFE)) = true := by
  decide

theorem test_decode_jumps :
    (reads [0b01001111, 0xC3] (.pcall 0xC3) && reads [0b00011011, 0x34, 0xD2] (.jmpAbs 0xD234) &&
    reads [0b00011111, 0x34, 0xD2] (.jmpIndAbs 0xD234) && reads [0b00111111, 0x35] (.jmpIndDp 0x35) &&
    reads [0b00111011, 0x34, 0xD2] (.callAbs 0xD234) && reads [0b01011111, 0x35] (.callIndDp 0x35) &&
    reads [0b10111010] (.tcall 11)) = true := by
  decide

theorem test_decode_stack :
    (reads [0b00001101] .popA && reads [0b00101101] .popX && reads [0b01001101] .popY &&
    reads [0b01101101] .popPsw && reads [0b00001110] .pushA && reads [0b00101110] .pushX &&
    reads [0b01001110] .pushY && reads [0b01101110] .pushPsw && reads [0b00001111] .brk &&
    reads [0b01101111] .ret && reads [0b11101111] .stop && reads [0b01111111] .reti && reads [0b11111111] .nop) = true := by
  decide

-- the host's two entry points on a row of spec/opcode_table.json (log 3, 4): the op code in the highest byte
theorem test_table_word : decodeTableWord 24 0x1525C0 = some (.adcAbsY 0xC025) := by decide

theorem test_fetch_word :
    after (step (State.reset.withFetchWord 16 0xC480)) (fun t => (t.a, t.psw, t.pc)) = some (0x80, 0x80, 0x0002) := by
  decide

/-! ## One step of each instruction -/

/-! ### Addressing modes: 95_test_vectors.md, Part 1 and section 2.1 -/

-- S1
theorem test_imm :
    after (run 0x1000 [0x04, 0x35] { State.reset with a := 0x10, psw := 0x01 }) (fun t => (t.a, t.psw, t.pc)) =
      some (0x46, 0x00, 0x1002) := by decide

-- S2
theorem test_immToDp :
    after (run 0x1000 [0xE4, 0x55, 0x35] { State.reset with psw := 0x20 }) (fun t => (t.byteAt 0x0135, t.psw, t.pc)) =
      some (0x55, 0x20, 0x1003) := by decide

-- S3
theorem test_dp_page1 :
    after (run 0x1000 [0x05, 0x35] { State.reset with psw := 0x20, a := 0x01, mem := [(0x0135, 0x02)] })
      (fun t => (t.a, t.psw, t.pc)) = some (0x03, 0x20, 0x1002) := by decide

-- S4
theorem test_inc_dp :
    after (run 0x1000 [0x89, 0x35] { State.reset with psw := 0x20, mem := [(0x0135, 0x7F)] })
      (fun t => (t.byteAt 0x0135, t.psw, t.pc)) = some (0x80, 0xA0, 0x1002) := by decide

-- S5
theorem test_abs :
    after (run 0x1000 [0x07, 0x35, 0xD0] { State.reset with mem := [(0xD035, 0x80)] }) (fun t => (t.a, t.psw, t.pc)) =
      some (0x80, 0x80, 0x1003) := by decide

-- S6
theorem test_inc_abs :
    after (run 0x1000 [0x98, 0x35, 0x01] { State.reset with psw := 0x20, mem := [(0x0135, 0xFF)] })
      (fun t => (t.byteAt 0x0135, t.psw, t.pc)) = some (0x00, 0x22, 0x1003) := by decide

-- S7
theorem test_dpX_wraps_page0 :
    after (run 0x1000 [0x06, 0x45] { State.reset with x := 0xF5, a := 0x22, mem := [(0x003A, 0x11)] })
      (fun t => (t.a, t.psw, t.pc)) = some (0x33, 0x00, 0x1002) := by decide

-- S8
theorem test_absY :
    after (run 0x1000 [0x15, 0x35, 0xD0] { State.reset with y := 0x55, mem := [(0xD08A, 0x07)] })
      (fun t => (t.a, t.pc)) = some (0x07, 0x1003) := by decide

-- S9
theorem test_indX :
    after (run 0x1000 [0x14] { State.reset with psw := 0x20, x := 0x35, mem := [(0x0135, 0x21)] })
      (fun t => (t.a, t.x, t.pc)) = some (0x21, 0x35, 0x1001) := by decide

-- S10, with op code DB (C1 of 90_conflicts.md)
theorem test_lda_indX_inc :
    after (run 0x1000 [0xDB] { State.reset with psw := 0x20, x := 0x35, mem := [(0x0135, 0x80)] })
      (fun t => (t.a, t.x, t.psw, t.pc)) = some (0x80, 0x36, 0xA0, 0x1001) := by decide

-- S11
theorem test_jmp_indDp :
    after (run 0x1000 [0x3F, 0x35] { State.reset with mem := [(0x0035, 0x05), (0x0036, 0xC0)] }) (fun t => t.pc) =
      some 0xC005 := by decide

-- S12
theorem test_indDpX :
    after (run 0x1000 [0x16, 0x25] { State.reset with x := 0x10, mem := [(0x0035, 0x05), (0x0036, 0xC0), (0xC005, 0x42)] })
      (fun t => (t.a, t.pc)) = some (0x42, 0x1002) := by decide

-- S13
theorem test_indDpY :
    after (run 0x1000 [0x17, 0x25] { State.reset with y := 0x10, mem := [(0x0025, 0x05), (0x0026, 0xC0), (0xC015, 0x42)] })
      (fun t => (t.a, t.pc)) = some (0x42, 0x1002) := by decide

-- S14
theorem test_jmp_indAbs :
    after (run 0x1000 [0x1F, 0x25, 0xC0] { State.reset with mem := [(0xC025, 0x05), (0xC026, 0xD0)] })
      (fun t => t.pc) = some 0xD005 := by decide

theorem test_dpX_wraps_page1 :
    after (run 0x1000 [0xC6, 0xF0] { State.reset with psw := 0x20, x := 0x30, mem := [(0x0120, 0x7F)] })
      (fun t => (t.a, t.psw, t.pc)) = some (0x7F, 0x20, 0x1002) := by decide

theorem test_lda_indX_inc_wraps :
    after (run 0x1000 [0xDB] { State.reset with psw := 0x20, x := 0xFF }) (fun t => (t.a, t.x, t.psw, t.pc)) =
      some (0x00, 0x00, 0x22, 0x1001) := by decide

theorem test_sta_indX_inc :
    after (run 0x1000 [0xFB] { State.reset with x := 0xFF, a := 0x77 })
      (fun t => (t.byteAt 0x00FF, t.x, t.psw, t.pc)) = some (0x77, 0x00, 0x00, 0x1001) := by decide

theorem test_absY_wraps :
    after (run 0x1000 [0xD5, 0xF0, 0xFF] { State.reset with y := 0x20, mem := [(0x0010, 0x5A)] })
      (fun t => (t.a, t.pc)) = some (0x5A, 0x1003) := by decide

theorem test_indDpX_pointer_wraps :
    after (run 0x1000 [0xD6, 0xF0] { State.reset with x := 0x20, mem := [(0x0011, 0x02), (0x0200, 0x99)] })
      (fun t => (t.a, t.psw, t.pc)) = some (0x99, 0x80, 0x1002) := by decide

theorem test_indDpY_wraps :
    after (run 0x1000 [0xD7, 0x25] { State.reset with y := 0x01, mem := [(0x0000, 0x12), (0x0025, 0xFF), (0x0026, 0xFF)] })
      (fun t => (t.a, t.pc)) = some (0x12, 0x1002) := by decide

theorem test_jmp_indAbs_wraps :
    after (run 0x1000 [0x1F, 0xFF, 0xFF] { State.reset with mem := [(0x0000, 0x12), (0xFFFF, 0x34)] })
      (fun t => t.pc) = some 0x1234 := by decide

/-! ### Arithmetic and logic: 95_test_vectors.md, section 2.2 -/

theorem test_adc_carry_half :
    after (run 0x1000 [0x04, 0x01] { State.reset with a := 0xFF, psw := 0x01 }) (fun t => (t.a, t.psw, t.pc)) =
      some (0x01, 0x09, 0x1002) := by decide

theorem test_adc_overflow :
    after (run 0x1000 [0x04, 0x01] { State.reset with a := 0x7F }) (fun t => (t.a, t.psw, t.pc)) =
      some (0x80, 0xC8, 0x1002) := by decide

theorem test_sbc_borrow :
    after (run 0x1000 [0x24, 0x01] { State.reset with psw := 0x01 }) (fun t => (t.a, t.psw, t.pc)) =
      some (0xFF, 0x80, 0x1002) := by decide

theorem test_sbc_overflow :
    after (run 0x1000 [0x24, 0x01] { State.reset with a := 0x80, psw := 0x01 }) (fun t => (t.a, t.psw, t.pc)) =
      some (0x7F, 0x41, 0x1002) := by decide

theorem test_cmp_equal :
    after (run 0x1000 [0x44, 0x35] { State.reset with a := 0x35 }) (fun t => (t.a, t.psw, t.pc)) =
      some (0x35, 0x03, 0x1002) := by decide

theorem test_cmp_less :
    after (run 0x1000 [0x44, 0x36] { State.reset with a := 0x35 }) (fun t => (t.a, t.psw, t.pc)) =
      some (0x35, 0x80, 0x1002) := by decide

theorem test_cmpx :
    after (run 0x1000 [0x5E, 0xFF] State.reset) (fun t => (t.psw, t.pc)) = some (0x00, 0x1002) := by decide

theorem test_cmpy :
    after (run 0x1000 [0x7E, 0x7F] { State.reset with y := 0x80 }) (fun t => (t.psw, t.pc)) =
      some (0x01, 0x1002) := by decide

theorem test_and :
    after (run 0x1000 [0x84, 0xF0] { State.reset with a := 0x0F }) (fun t => (t.a, t.psw, t.pc)) =
      some (0x00, 0x02, 0x1002) := by decide

-- with an operand added
theorem test_or :
    after (run 0x1000 [0x64, 0x5A] { State.reset with a := 0x0F }) (fun t => (t.a, t.psw, t.pc)) =
      some (0x5F, 0x00, 0x1002) := by decide

theorem test_eor :
    after (run 0x1000 [0xA4, 0xFF] { State.reset with a := 0x0F }) (fun t => (t.a, t.psw, t.pc)) =
      some (0xF0, 0x80, 0x1002) := by decide

theorem test_asl :
    after (run 0x1000 [0x08] { State.reset with a := 0x80 }) (fun t => (t.a, t.psw, t.pc)) =
      some (0x00, 0x03, 0x1001) := by decide

theorem test_lsr :
    after (run 0x1000 [0x48] { State.reset with a := 0x01 }) (fun t => (t.a, t.psw, t.pc)) =
      some (0x00, 0x03, 0x1001) := by decide

theorem test_rol :
    after (run 0x1000 [0x28] { State.reset with a := 0x40, psw := 0x01 }) (fun t => (t.a, t.psw, t.pc)) =
      some (0x81, 0x80, 0x1001) := by decide

theorem test_ror :
    after (run 0x1000 [0x68] { State.reset with a := 0x02, psw := 0x01 }) (fun t => (t.a, t.psw, t.pc)) =
      some (0x81, 0x80, 0x1001) := by decide

-- (C is drawn)
theorem test_inc_a :
    after (run 0x1000 [0x88] { State.reset with a := 0x7F }) (fun t => (t.a, t.pc)) = some (0x80, 0x1001) := by decide

theorem test_dec_a :
    after (run 0x1000 [0xA8] { State.reset with a := 0x00, psw := 0x01 }) (fun t => (t.a, t.psw, t.pc)) =
      some (0xFF, 0x81, 0x1001) := by decide

theorem test_inc_x :
    after (run 0x1000 [0x8F] { State.reset with x := 0xFF }) (fun t => (t.x, t.psw, t.pc)) =
      some (0x00, 0x02, 0x1001) := by decide

theorem test_dec_y :
    after (run 0x1000 [0xBE] { State.reset with y := 0x01 }) (fun t => (t.y, t.psw, t.pc)) =
      some (0x00, 0x02, 0x1001) := by decide

-- R112 of 41_arithmetic_logic.md
theorem test_inc_y :
    after (run 0x1000 [0x9E] { State.reset with y := 0x7F, x := 0x01 }) (fun t => (t.y, t.x, t.psw, t.pc)) =
      some (0x80, 0x01, 0x80, 0x1001) := by decide

-- R109 of 41_arithmetic_logic.md
theorem test_dec_x :
    after (run 0x1000 [0xAF] { State.reset with x := 0x00, y := 0x01 }) (fun t => (t.x, t.y, t.psw, t.pc)) =
      some (0xFF, 0x01, 0x80, 0x1001) := by decide

theorem test_com :
    after (run 0x1000 [0x2C, 0x40] { State.reset with mem := [(0x0040, 0xFF)] })
      (fun t => (t.byteAt 0x0040, t.psw, t.pc)) = some (0x00, 0x02, 0x1002) := by decide

theorem test_tst :
    after (run 0x1000 [0x4C, 0x40] { State.reset with mem := [(0x0040, 0x80)] })
      (fun t => (t.psw, t.byteAt 0x0040, t.pc)) = some (0x80, 0x80, 0x1002) := by decide

theorem test_xcn :
    after (run 0x1000 [0xCE] { State.reset with a := 0x1F }) (fun t => (t.a, t.psw, t.pc)) =
      some (0xF1, 0x80, 0x1001) := by decide

theorem test_daa_carry :
    after (run 0x1000 [0xDF] { State.reset with a := 0x9A, psw := 0x80 }) (fun t => (t.a, t.psw, t.pc)) =
      some (0x00, 0x03, 0x1001) := by decide

theorem test_daa_half :
    after (run 0x1000 [0xDF] { State.reset with a := 0x41, psw := 0x08 }) (fun t => (t.a, t.psw, t.pc)) =
      some (0x47, 0x08, 0x1001) := by decide

theorem test_das :
    after (run 0x1000 [0xCF] { State.reset with a := 0x1F, psw := 0x01 }) (fun t => (t.a, t.psw, t.pc)) =
      some (0x19, 0x01, 0x1001) := by decide

-- (N and Z are drawn)
theorem test_mul :
    after (run 0x1000 [0x5B] { State.reset with y := 0xFF, a := 0xFF }) (fun t => (t.y, t.a, t.pc)) =
      some (0xFE, 0x01, 0x1001) := by decide

-- (H is drawn)
theorem test_div :
    after (run 0x1000 [0x9B] { State.reset with y := 0x0F, a := 0xFF, x := 0x10 }) (fun t => (t.y, t.a, t.pc)) =
      some (0x0F, 0xFF, 0x1001) := by decide

/-! ### Register and memory transfer: 95_test_vectors.md, section 2.3 -/

theorem test_lda :
    after (run 0x1000 [0xC4, 0x00] { State.reset with a := 0x11 }) (fun t => (t.a, t.psw, t.pc)) =
      some (0x00, 0x02, 0x1002) := by decide

theorem test_ldx :
    after (run 0x1000 [0x1E, 0xFF] State.reset) (fun t => (t.x, t.psw, t.pc)) = some (0xFF, 0x80, 0x1002) := by decide

theorem test_ldy :
    after (run 0x1000 [0x3E, 0x00] { State.reset with y := 0x11 }) (fun t => (t.y, t.psw, t.pc)) =
      some (0x00, 0x02, 0x1002) := by decide

-- R132 of 42_register_memory.md
theorem test_ldx_dpY :
    after (run 0x1000 [0xCD, 0xF0] { State.reset with y := 0x20, mem := [(0x0010, 0x33)] }) (fun t => (t.x, t.pc)) =
      some (0x33, 0x1002) := by decide

-- R133 of 42_register_memory.md
theorem test_ldy_dpX :
    after (run 0x1000 [0xD9, 0xF0] { State.reset with x := 0x20, mem := [(0x0010, 0x33)] }) (fun t => (t.y, t.pc)) =
      some (0x33, 0x1002) := by decide

theorem test_sta :
    after (run 0x1000 [0xE5, 0x40] { State.reset with psw := 0x20, a := 0x12 })
      (fun t => (t.byteAt 0x0140, t.psw, t.pc)) = some (0x12, 0x20, 0x1002) := by decide

theorem test_stx :
    after (run 0x1000 [0xFC, 0x00, 0x02] { State.reset with x := 0x7F }) (fun t => (t.byteAt 0x0200, t.pc)) =
      some (0x7F, 0x1003) := by decide

theorem test_sty :
    after (run 0x1000 [0xE9, 0x41] { State.reset with y := 0x34 }) (fun t => (t.byteAt 0x0041, t.pc)) =
      some (0x34, 0x1002) := by decide

theorem test_tax :
    after (run 0x1000 [0xE8] { State.reset with x := 0x11 }) (fun t => (t.x, t.psw, t.pc)) =
      some (0x00, 0x02, 0x1001) := by decide

theorem test_tay :
    after (run 0x1000 [0x9F] { State.reset with a := 0x90 }) (fun t => (t.y, t.psw, t.pc)) =
      some (0x90, 0x80, 0x1001) := by decide

theorem test_tspx :
    after (run 0x1000 [0xAE] { State.reset with sp := 0xFF }) (fun t => (t.x, t.psw, t.pc)) =
      some (0xFF, 0x80, 0x1001) := by decide

theorem test_txa :
    after (run 0x1000 [0xC8] { State.reset with x := 0x01 }) (fun t => (t.a, t.psw, t.pc)) =
      some (0x01, 0x00, 0x1001) := by decide

-- (N and Z are drawn)
theorem test_txsp :
    after (run 0x1000 [0x8E] { State.reset with x := 0xFF }) (fun t => (t.sp, t.pc)) =
      some (0xFF, 0x1001) := by decide

theorem test_tya :
    after (run 0x1000 [0xBF] { State.reset with a := 0x11 }) (fun t => (t.a, t.psw, t.pc)) =
      some (0x00, 0x02, 0x1001) := by decide

theorem test_xax :
    after (run 0x1000 [0xEE] { State.reset with a := 0x12, x := 0x34, psw := 0x83 })
      (fun t => (t.a, t.x, t.psw, t.pc)) = some (0x34, 0x12, 0x83, 0x1001) := by decide

theorem test_xay :
    after (run 0x1000 [0xDE] { State.reset with a := 0x12, y := 0x34 }) (fun t => (t.a, t.y, t.psw, t.pc)) =
      some (0x34, 0x12, 0x00, 0x1001) := by decide

theorem test_xyx :
    after (run 0x1000 [0xFE] { State.reset with x := 0x01, y := 0x02 }) (fun t => (t.x, t.y, t.psw, t.pc)) =
      some (0x02, 0x01, 0x00, 0x1001) := by decide

theorem test_xma :
    after (run 0x1000 [0xBC, 0x40] { State.reset with a := 0x01, mem := [(0x0040, 0x80)] })
      (fun t => (t.a, t.byteAt 0x0040, t.psw, t.pc)) = some (0x80, 0x01, 0x80, 0x1002) := by decide

/-! ### 16-bit operations: 95_test_vectors.md, section 2.4 -/

theorem test_addw_wraps :
    after (run 0x1000 [0x1D, 0x40] { State.reset with y := 0xFF, a := 0xFF, mem := [(0x0040, 0x01)] })
      (fun t => (t.y, t.a, t.psw, t.pc)) = some (0x00, 0x00, 0x0B, 0x1002) := by decide

theorem test_addw_ignores_c :
    after (run 0x1000 [0x1D, 0x40] { State.reset with psw := 0x01, mem := [(0x0040, 0x01)] })
      (fun t => (t.y, t.a, t.psw, t.pc)) = some (0x00, 0x01, 0x00, 0x1002) := by decide

theorem test_subw_borrow :
    after (run 0x1000 [0x3D, 0x40] { State.reset with mem := [(0x0040, 0x01)] }) (fun t => (t.y, t.a, t.psw, t.pc)) =
      some (0xFF, 0xFF, 0x80, 0x1002) := by decide

theorem test_subw_overflow :
    after (run 0x1000 [0x3D, 0x40] { State.reset with y := 0x80, mem := [(0x0040, 0x01)] })
      (fun t => (t.y, t.a, t.psw, t.pc)) = some (0x7F, 0xFF, 0x41, 0x1002) := by decide

theorem test_cmpw :
    after (run 0x1000 [0x5D, 0x35] { State.reset with y := 0x0F, a := 0xFF, mem := [(0x0036, 0x10)] })
      (fun t => (t.y, t.a, t.psw, t.pc)) = some (0x0F, 0xFF, 0x80, 0x1002) := by decide

theorem test_incw :
    after (run 0x1000 [0x9D, 0x40] { State.reset with mem := [(0x0040, 0xFF)] })
      (fun t => (t.byteAt 0x0040, t.byteAt 0x0041, t.psw, t.pc)) = some (0x00, 0x01, 0x00, 0x1002) := by decide

theorem test_decw :
    after (run 0x1000 [0xBD, 0x40] { State.reset with mem := [(0x0041, 0x01)] })
      (fun t => (t.byteAt 0x0040, t.byteAt 0x0041, t.psw, t.pc)) = some (0xFF, 0x00, 0x00, 0x1002) := by decide

theorem test_ldya :
    after (run 0x1000 [0x7D, 0x35] { State.reset with psw := 0x20, mem := [(0x0135, 0x55), (0x0136, 0xAA)] })
      (fun t => (t.a, t.y, t.psw, t.pc)) = some (0x55, 0xAA, 0xA0, 0x1002) := by decide

theorem test_stya :
    after (run 0x1000 [0xDD, 0xFE] { State.reset with psw := 0x20, y := 0xAB, a := 0xCD })
      (fun t => (t.byteAt 0x01FE, t.byteAt 0x01FF, t.psw, t.pc)) = some (0xCD, 0xAB, 0x20, 0x1002) := by decide

/-! ### Bit manipulation: 95_test_vectors.md, section 2.5 -/

theorem test_and1 :
    after (run 0x1000 [0x8B, 0x35, 0x41] { State.reset with psw := 0x01 }) (fun t => (t.psw, t.pc)) =
      some (0x00, 0x1003) := by decide

-- S20
theorem test_and1b :
    after (run 0x1000 [0x8B, 0x35, 0x51] { State.reset with psw := 0x01 }) (fun t => (t.psw, t.pc)) =
      some (0x01, 0x1003) := by decide

theorem test_or1 :
    after (run 0x1000 [0x6B, 0x35, 0x41] { State.reset with mem := [(0x0135, 0x04)] }) (fun t => (t.psw, t.pc)) =
      some (0x01, 0x1003) := by decide

theorem test_or1b :
    after (run 0x1000 [0x6B, 0x35, 0x51] { State.reset with mem := [(0x0135, 0x04)] }) (fun t => (t.psw, t.pc)) =
      some (0x00, 0x1003) := by decide

theorem test_eor1 :
    after (run 0x1000 [0xAB, 0x35, 0x41] { State.reset with psw := 0x01, mem := [(0x0135, 0x04)] })
      (fun t => (t.psw, t.pc)) = some (0x00, 0x1003) := by decide

theorem test_eor1b :
    after (run 0x1000 [0xAB, 0x35, 0x51] { State.reset with psw := 0x01, mem := [(0x0135, 0x04)] })
      (fun t => (t.psw, t.pc)) = some (0x01, 0x1003) := by decide

theorem test_ldc :
    after (run 0x1000 [0xCB, 0x00, 0xE0] { State.reset with mem := [(0x0000, 0x80)] }) (fun t => (t.psw, t.pc)) =
      some (0x01, 0x1003) := by decide

theorem test_ldcb :
    after (run 0x1000 [0xCB, 0x00, 0xF0] { State.reset with mem := [(0x0000, 0x80)] }) (fun t => (t.psw, t.pc)) =
      some (0x00, 0x1003) := by decide

theorem test_not1 :
    after (run 0x1000 [0x4B, 0x35, 0x41] State.reset) (fun t => (t.byteAt 0x0135, t.psw, t.pc)) =
      some (0x04, 0x00, 0x1003) := by decide

theorem test_stc_clears :
    after (run 0x1000 [0xEB, 0x00, 0xE0] { State.reset with mem := [(0x0000, 0xFF)] })
      (fun t => (t.byteAt 0x0000, t.pc)) = some (0x7F, 0x1003) := by decide

theorem test_set1 :
    after (run 0x1000 [0xC1, 0x35] State.reset) (fun t => (t.byteAt 0x0035, t.psw, t.pc)) =
      some (0x40, 0x00, 0x1002) := by decide

theorem test_clr1 :
    after (run 0x1000 [0xF1, 0x35] { State.reset with psw := 0x20, mem := [(0x0135, 0xFF)] })
      (fun t => (t.byteAt 0x0135, t.psw, t.pc)) = some (0x7F, 0x20, 0x1002) := by decide

theorem test_seta1 :
    after (run 0x1000 [0x0B, 0xC0] State.reset) (fun t => (t.a, t.psw, t.pc)) = some (0x40, 0x00, 0x1002) := by decide

theorem test_clra1 :
    after (run 0x1000 [0x2B, 0xC0] { State.reset with a := 0xFF }) (fun t => (t.a, t.psw, t.pc)) =
      some (0xBF, 0x00, 0x1002) := by decide

theorem test_clrc :
    after (run 0x1000 [0x20] { State.reset with psw := 0xFF }) (fun t => (t.psw, t.pc)) =
      some (0xFE, 0x1001) := by decide

theorem test_setc :
    after (run 0x1000 [0xA0] State.reset) (fun t => (t.psw, t.pc)) = some (0x01, 0x1001) := by decide

theorem test_clrg :
    after (run 0x1000 [0x40] { State.reset with psw := 0xFF }) (fun t => (t.psw, t.pc)) =
      some (0xDF, 0x1001) := by decide

theorem test_setg :
    after (run 0x1000 [0xC0] State.reset) (fun t => (t.psw, t.pc)) = some (0x20, 0x1001) := by decide

theorem test_clrv :
    after (run 0x1000 [0x80] { State.reset with psw := 0xFF }) (fun t => (t.psw, t.pc)) =
      some (0xB7, 0x1001) := by decide

theorem test_bit :
    after (run 0x1000 [0x0C, 0x40] { State.reset with a := 0x0F, mem := [(0x0040, 0xC0)] }) (fun t => (t.psw, t.pc)) =
      some (0xC2, 0x1002) := by decide

theorem test_tclr1 :
    after (run 0x1000 [0x5C, 0x00, 0x02] { State.reset with a := 0x0F, mem := [(0x0200, 0xFF)] })
      (fun t => (t.byteAt 0x0200, t.psw, t.pc)) = some (0xF0, 0x00, 0x1003) := by decide

theorem test_tset1 :
    after (run 0x1000 [0x3C, 0x00, 0x02] { State.reset with a := 0x01, mem := [(0x0200, 0x01)] })
      (fun t => (t.byteAt 0x0200, t.psw, t.pc)) = some (0x01, 0x02, 0x1003) := by decide

/-! ### Branches, jumps and calls: 95_test_vectors.md, section 2.6 -/

theorem test_bcc_backward_wraps :
    after (run 0x0010 [0x50, 0x80] State.reset) (fun t => t.pc) = some 0xFF92 := by decide

theorem test_bcc_not_taken :
    after (run 0x1000 [0x50, 0x30] { State.reset with psw := 0x01 }) (fun t => t.pc) = some 0x1002 := by decide

theorem test_bcs :
    after (run 0x1000 [0xD0, 0x05] { State.reset with psw := 0x01 }) (fun t => t.pc) = some 0x1007 := by decide

theorem test_beq :
    after (run 0x1000 [0xF0, 0xFC] { State.reset with psw := 0x02 }) (fun t => t.pc) = some 0x0FFE := by decide

theorem test_bne :
    after (run 0x1000 [0x70, 0xFD] State.reset) (fun t => t.pc) = some 0x0FFF := by decide

theorem test_bmi :
    after (run 0x1000 [0x90, 0x02] { State.reset with psw := 0x80 }) (fun t => t.pc) = some 0x1004 := by decide

theorem test_bpl :
    after (run 0x1000 [0x10, 0x7F] State.reset) (fun t => t.pc) = some 0x1081 := by decide

theorem test_bvc :
    after (run 0x1000 [0x30, 0x10] { State.reset with psw := 0x40 }) (fun t => t.pc) = some 0x1002 := by decide

theorem test_bvs :
    after (run 0x1000 [0xB0, 0x10] { State.reset with psw := 0x40 }) (fun t => t.pc) = some 0x1012 := by decide

-- S24
theorem test_bra_itself :
    after (run 0x1000 [0x2F, 0xFE] State.reset) (fun t => t.pc) = some 0x1000 := by decide

theorem test_bra_wraps :
    after (run 0xFFF0 [0x2F, 0x7F] State.reset) (fun t => t.pc) = some 0x0071 := by decide

-- S16
theorem test_bbcA :
    after (run 0x1000 [0xF2, 0x30] { State.reset with a := 0x55 }) (fun t => t.pc) = some 0x1032 := by decide

theorem test_bbcDp :
    after (run 0x2000 [0x13, 0x40, 0xFD] { State.reset with mem := [(0x0040, 0xFE)] }) (fun t => t.pc) =
      some 0x2000 := by decide

theorem test_bbsA :
    after (run 0x1000 [0x02, 0x10] { State.reset with a := 0x55 }) (fun t => t.pc) = some 0x1012 := by decide

theorem test_bbsDp :
    after (run 0x1000 [0xE3, 0x35, 0x10] { State.reset with mem := [(0x0035, 0x55)] }) (fun t => t.pc) =
      some 0x1003 := by decide

theorem test_cbne_equal :
    after (run 0x2000 [0xFD, 0x40, 0x05] { State.reset with a := 0x10, mem := [(0x0040, 0x10)] }) (fun t => t.pc) =
      some 0x2003 := by decide

theorem test_cbne_page1 :
    after (run 0x2000 [0xFD, 0x40, 0xF0] { State.reset with psw := 0x20, a := 0x11, mem := [(0x0140, 0x10)] })
      (fun t => t.pc) = some 0x1FF3 := by decide

-- R202 of 45_branch_jump.md
theorem test_cbne_dpX :
    after (run 0x1000 [0x8D, 0xF0, 0x05] { State.reset with x := 0x20, mem := [(0x0010, 0x01)] }) (fun t => t.pc) =
      some 0x1008 := by decide

theorem test_dbneDp :
    after (run 0x2000 [0xAC, 0x40, 0x10] State.reset) (fun t => (t.byteAt 0x0040, t.pc)) =
      some (0xFF, 0x2013) := by decide

theorem test_dbneY :
    after (run 0x2000 [0x7B, 0x10] { State.reset with y := 0x01 }) (fun t => (t.y, t.pc)) =
      some (0x00, 0x2002) := by decide

theorem test_jmp :
    after (run 0x1000 [0x1B, 0x00, 0xC0] { State.reset with sp := 0x80 }) (fun t => (t.pc, t.sp)) =
      some (0xC000, 0x80) := by decide

theorem test_call_wraps :
    after (run 0x1000 [0x3B, 0x34, 0x12] { State.reset with sp := 0x00 })
      (fun t => (t.byteAt 0x0100, t.byteAt 0x01FF, t.sp, t.pc)) = some (0x10, 0x03, 0xFE, 0x1234) := by decide

theorem test_call_indDp :
    after (run 0x1000 [0x5F, 0x35] { State.reset with sp := 0xFF, mem := [(0x0035, 0x05), (0x0036, 0xC0)] })
      (fun t => (t.byteAt 0x01FF, t.byteAt 0x01FE, t.sp, t.pc)) = some (0x10, 0x02, 0xFD, 0xC005) := by decide

-- S22
theorem test_pcall :
    after (run 0x1000 [0x4F, 0x35] { State.reset with sp := 0xFF })
      (fun t => (t.byteAt 0x01FF, t.byteAt 0x01FE, t.sp, t.pc)) = some (0x10, 0x02, 0xFD, 0xFF35) := by decide

theorem test_tcall_15 :
    after (run 0x1000 [0xFA] { State.reset with sp := 0xFF, mem := [(0xFFC0, 0x78), (0xFFC1, 0x56)] })
      (fun t => (t.byteAt 0x01FF, t.byteAt 0x01FE, t.sp, t.pc)) = some (0x10, 0x01, 0xFD, 0x5678) := by decide

theorem test_tcall_0 :
    after (run 0x1000 [0x0A] { State.reset with sp := 0x80, mem := [(0xFFDF, 0xE0)] })
      (fun t => (t.byteAt 0x0180, t.byteAt 0x017F, t.sp, t.psw, t.pc)) =
      some (0x10, 0x01, 0x7E, 0x00, 0xE000) := by decide

/-! ### Stack and control: 95_test_vectors.md, section 2.7 -/

theorem test_push_a :
    after (run 0x1000 [0x0E] { State.reset with a := 0x11, sp := 0x00 }) (fun t => (t.byteAt 0x0100, t.sp, t.pc)) =
      some (0x11, 0xFF, 0x1001) := by decide

-- R215 of 46_control.md
theorem test_push_x :
    after (run 0x1000 [0x2E] { State.reset with a := 0x11, x := 0x22, sp := 0x80 })
      (fun t => (t.byteAt 0x0180, t.sp, t.pc)) = some (0x22, 0x7F, 0x1001) := by decide

-- R215 of 46_control.md
theorem test_push_y :
    after (run 0x1000 [0x4E] { State.reset with a := 0x11, y := 0x33, sp := 0x80 })
      (fun t => (t.byteAt 0x0180, t.sp, t.pc)) = some (0x33, 0x7F, 0x1001) := by decide

theorem test_push_psw :
    after (run 0x1000 [0x6E] { State.reset with psw := 0xA5, sp := 0xFF })
      (fun t => (t.byteAt 0x01FF, t.sp, t.psw, t.pc)) = some (0xA5, 0xFE, 0xA5, 0x1001) := by decide

theorem test_pop_a :
    after (run 0x1000 [0x0D] { State.reset with sp := 0xFD, psw := 0x02, mem := [(0x01FE, 0x5A)] })
      (fun t => (t.a, t.sp, t.psw, t.pc)) = some (0x5A, 0xFE, 0x02, 0x1001) := by decide

-- R214 of 46_control.md
theorem test_pop_x :
    after (run 0x1000 [0x2D] { State.reset with sp := 0xFD, mem := [(0x01FE, 0x5A)] })
      (fun t => (t.x, t.a, t.sp, t.pc)) = some (0x5A, 0x00, 0xFE, 0x1001) := by decide

-- R214 of 46_control.md
theorem test_pop_y :
    after (run 0x1000 [0x4D] { State.reset with sp := 0xFD, mem := [(0x01FE, 0x5A)] })
      (fun t => (t.y, t.a, t.sp, t.pc)) = some (0x5A, 0x00, 0xFE, 0x1001) := by decide

theorem test_pop_psw :
    after (run 0x1000 [0x6D] { State.reset with sp := 0xFF, mem := [(0x0100, 0xFF)] })
      (fun t => (t.sp, t.psw, t.pc)) = some (0x00, 0xFF, 0x1001) := by decide

theorem test_ret :
    after (run 0x1000 [0x6F] { State.reset with sp := 0xFF, mem := [(0x0100, 0x34), (0x0101, 0x12)] })
      (fun t => (t.pc, t.sp)) = some (0x1234, 0x01) := by decide

theorem test_reti :
    after (run 0x1000 [0x7F] { State.reset with sp := 0xFC, mem := [(0x01FD, 0x15), (0x01FE, 0x01), (0x01FF, 0x10)] })
      (fun t => (t.psw, t.pc, t.sp)) = some (0x15, 0x1001, 0xFF) := by decide

theorem test_brk :
    after (run 0x1000 [0x0F] { State.reset with sp := 0xFF, psw := 0x05, mem := [(0xFFDF, 0xE0)] })
      (fun t => (t.byteAt 0x01FF, t.byteAt 0x01FE, t.byteAt 0x01FD, t.sp, t.psw, t.pc)) =
      some (0x10, 0x01, 0x15, 0xFC, 0x11, 0xE000) := by decide

theorem test_brk_wraps :
    after (run 0x1000 [0x0F] { State.reset with sp := 0x01, psw := 0xA3, mem := [(0xFFDF, 0xE0)] })
      (fun t => (t.byteAt 0x0101, t.byteAt 0x0100, t.byteAt 0x01FF, t.sp, t.psw, t.pc)) =
      some (0x10, 0x01, 0xB3, 0xFE, 0xB3, 0xE000) := by decide

theorem test_di :
    after (run 0x1000 [0x60] { State.reset with psw := 0x04 }) (fun t => (t.psw, t.pc)) =
      some (0x00, 0x1001) := by decide

theorem test_ei :
    after (run 0x1000 [0xE0] State.reset) (fun t => (t.psw, t.pc)) = some (0x04, 0x1001) := by decide

theorem test_nop :
    after (run 0x1000 [0xFF] { State.reset with a := 0x12, sp := 0x34 }) (fun t => (t.a, t.sp, t.psw, t.pc)) =
      some (0x12, 0x34, 0x00, 0x1001) := by decide

theorem test_stop :
    after (run 0x1000 [0xEF] State.reset) (fun t => (t.stopped, t.pc)) = some (true, 0x1001) := by decide

-- R61, D5
theorem test_illegal_opcode :
    stop (run 0x1000 [0x00] State.reset) = some (.illegalOpcode 0x00) := by decide

-- R62, D6 (section 2.5)
theorem test_reserved_not1 :
    stop (run 0x1000 [0x4B, 0x35, 0x51] State.reset) = some (.reservedOperandBits 0x4B 0x51) := by decide

-- R62, D7 (section 2.5)
theorem test_reserved_seta1 :
    stop (run 0x1000 [0x0B, 0xC1] State.reset) = some (.reservedOperandBits 0x0B 0xC1) := by decide

/-! ### Interrupts and reset: 95_test_vectors.md, section 2.8 and P4 -/

/-- Two sources whose devices hold enable and request themselves, both 1; the second has the higher priority. -/
def twoSources : List IrqSource :=
  [{ id := 1, vector := 0xFFFA, priority := 1, enable := .hidden true, request := .hidden true },
   { id := 2, vector := 0xFFE0, priority := 5, enable := .hidden true, request := .hidden true }]

/-- A source with its enable in bit 3 of the device register at 00D0h and its request in bit 7 of the one at 00D1h. -/
def registered : State :=
  { State.reset with
    memMap := [⟨0x00C0, 0x00FF, .device⟩], mem := [(0x00D0, 0x08), (0x00D1, 0x81), (0xFFFB, 0xC2)], psw := 0x04,
    irqTable := [{ id := 7, vector := 0xFFFA, priority := 1, enable := .register 0xD0 3, request := .register 0xD1 7 }] }

-- the interrupt of P4
theorem test_irq_accepted :
    after (step { State.reset with
        pc := 0xC009, sp := 0xFF, psw := 0x06, mem := [(0xFFFB, 0xC2)], irqTable := twoSources.take 1 })
      (fun t => (t.byteAt 0x01FF, t.byteAt 0x01FE, t.byteAt 0x01FD, t.sp, t.psw, t.pc)) =
      some (0xC0, 0x09, 0x06, 0xFC, 0x02, 0xC200) := by decide

-- R237: the higher priority first, the other one waits
theorem test_irq_priority :
    after (step { State.reset with psw := 0x04, mem := [(0xFFE1, 0xC3)], irqTable := twoSources })
      (fun t => (t.pc, t.irqPending)) = some (0xC300, [1]) := by decide

-- R234: I = 0
theorem test_irq_masked :
    after (run 0x1000 [0xFF] { State.reset with psw := 0x02, irqTable := twoSources })
      (fun t => (t.pc, t.irqPending)) = some (0x1001, [1, 2]) := by decide

-- R247: STOPPED = 1
theorem test_irq_stopped :
    after (step { State.reset with psw := 0x04, stopped := true, irqTable := twoSources })
      (fun t => (t.pc, t.irqPending)) = some (0x0000, [1, 2]) := by decide

-- R232, R235: the acceptance clears the request in its register, and that bit alone
theorem test_irq_register :
    after (step registered) (fun t => (t.pc, t.byteAt 0xD1, t.byteAt 0xD0, t.irqPending)) =
      some (0xC200, 0x01, 0x08, []) := by decide

-- R233: software clears the request through the register: CLR1 D1h.7 with I = 0
theorem test_irq_software_clear :
    after (run 0x1000 [0xF1, 0xD1] { registered with psw := 0x00 }) (fun t => (t.irqPending, t.byteAt 0xD1)) =
      some ([], 0x01) := by decide

-- R232: software disables the source: LDM D0h,#00 with I = 0, so that EI alone does not let it in
theorem test_irq_software_disable :
    after (run 0x1000 [0xE4, 0x00, 0xD0] { registered with psw := 0x00 })
      (fun t => (t.irqPending, { t with psw := 0x04 }.requestingSource)) = some ([7], none) := by decide

-- R9, R41: a device register is read and written like any cell
theorem test_device_read :
    after (run 0x1000 [0xC5, 0xD1] { registered with psw := 0x00 }) (fun t => (t.a, t.byteAt 0xD1)) =
      some (0x81, 0x81) := by decide

-- R233, R248: the environment requests a source, and a change of its register does not withdraw the request
theorem test_environment :
    ((({ registered with mem := [] }.environment (.request 7)).environment (.device 0xD1 0x05)).byteAt 0xD1,
      ({ registered with mem := [] }.environment (.request 7)).irqPending,
      (registered.environment (.device 0x0100 0xFF)).mem, (registered.environment .reset).resetRequest) =
      (0x85, [7], registered.mem, true) := by decide

-- R250
theorem test_reset_event :
    after (step { State.reset with
        pc := 0x1234, psw := 0xFF, stopped := true, resetRequest := true, mem := [(0xFFFF, 0xC0)],
        irqTable := twoSources })
      (fun t => (t.pc, t.psw, t.stopped, t.resetRequest, t.irqPending)) =
      some (0xC000, 0x00, false, false, []) := by decide

theorem test_reset_register :
    after (step { registered with resetRequest := true }) (fun t => (t.byteAt 0xD0, t.byteAt 0xD1, t.irqPending)) =
      some (0x08, 0x01, []) := by decide

/-! ## Witnesses: the hypotheses of the statements can be met -/

/-- Right after reset every cell is RAM (D16). -/
theorem reset_allWritable : AllWritable State.reset := fun _ => .inl rfl

/-- A state with registers, flags and memory to tell apart. -/
def busy : State :=
  { State.reset with
    a := 0x80, x := 0xFF, y := 0xFE, sp := 0x01, psw := 0x29, pc := 0x1000, mem := [(0x01FF, 0x7F), (0x1000, 0xFF)] }

theorem busy_allWritable : AllWritable busy := fun _ => .inl rfl

/-- ROM, a device and a hole, and RAM elsewhere. -/
def mapped : State :=
  { State.reset with
    memMap := [⟨0x8000, 0xFFFF, .rom⟩, ⟨0x00C0, 0x00FF, .device⟩, ⟨0x4000, 0x4FFF, .hole⟩], x := 0x01 }

theorem test_witness_AdcResult :
    adcForm (.mem (.absY 0xFFFF)) = some (.adcAbsY 0xFFFF) ∧
      CanRead busy (Src.cells (.mem (.absY 0xFFFF)) busy) :=
  ⟨rfl, busy_allWritable.canRead _⟩

theorem test_witness_SbcResult :
    sbcForm (.mem (.indDpX 0x00)) = some (.sbcIndDpX 0x00) ∧
      CanRead busy (Src.cells (.mem (.indDpX 0x00)) busy) :=
  ⟨rfl, busy_allWritable.canRead _⟩

theorem test_witness_OverflowIsSigned :
    (adcForm (.imm 0x80) = some (.adcImm 0x80) ∧ CanRead busy (Src.cells (.imm 0x80) busy)) ∧
      (sbcForm (.imm 0x7F) = some (.sbcImm 0x7F) ∧ CanRead busy (Src.cells (.imm 0x7F) busy)) ∧
      CanRead busy (busy.dpCells 0xFF) :=
  ⟨⟨rfl, busy_allWritable.canRead _⟩, ⟨rfl, busy_allWritable.canRead _⟩, busy_allWritable.canRead _⟩

theorem test_witness_LogicResult :
    logicForm .and (.mem .indX) = some .andIndX ∧ logicForm .or (.imm 0xFF) = some (.orImm 0xFF) ∧
      logicForm .eor (.mem (.dpX 0xFF)) = some (.eorDpX 0xFF) ∧ CanRead busy (Src.cells (.mem .indX) busy) ∧
      CanRead busy (Src.cells (.imm 0xFF) busy) ∧ CanRead busy (Src.cells (.mem (.dpX 0xFF)) busy) :=
  ⟨rfl, rfl, rfl, busy_allWritable.canRead _, busy_allWritable.canRead _, busy_allWritable.canRead _⟩

theorem test_witness_CompareResult :
    compareForm .a (.imm 0x80) = some (.cmpImm 0x80) ∧ compareForm .x (.mem (.dp 0xFF)) = some (.cmpxDp 0xFF) ∧
      compareForm .y (.mem (.abs 0xFFFF)) = some (.cmpyAbs 0xFFFF) ∧ CanRead busy (Src.cells (.imm 0x80) busy) ∧
      CanRead busy (Src.cells (.mem (.dp 0xFF)) busy) ∧ CanRead busy (Src.cells (.mem (.abs 0xFFFF)) busy) :=
  ⟨rfl, rfl, rfl, busy_allWritable.canRead _, busy_allWritable.canRead _, busy_allWritable.canRead _⟩

theorem test_witness_ShiftResult :
    shiftFormMem .asl (.dp 0xFF) = some (.aslDp 0xFF) ∧ shiftFormMem .lsr (.dpX 0xFF) = some (.lsrDpX 0xFF) ∧
      shiftFormMem .rol (.abs 0xFFFF) = some (.rolAbs 0xFFFF) ∧ shiftFormMem .ror (.dp 0x00) = some (.rorDp 0x00) ∧
      Writable busy ((Mode.dpX 0xFF).ea busy) ∧ Writable busy ((Mode.abs 0xFFFF).ea busy) :=
  ⟨rfl, rfl, rfl, rfl, .inl rfl, .inl rfl⟩

theorem test_witness_IncrementResult :
    stepFormMem true (.abs 0xFFFF) = some (.incAbs 0xFFFF) ∧ Writable busy ((Mode.abs 0xFFFF).ea busy) :=
  ⟨rfl, .inl rfl⟩

theorem test_witness_DecrementResult :
    stepFormMem false (.dpX 0xFF) = some (.decDpX 0xFF) ∧ Writable busy ((Mode.dpX 0xFF).ea busy) :=
  ⟨rfl, .inl rfl⟩

theorem test_witness_ComplementAndTest :
    Writable busy (busy.dpAddr 0xFF) ∧ Readable busy (busy.dpAddr 0x00) :=
  ⟨.inl rfl, .inl rfl⟩

theorem test_witness_BcdAddAndSubtract :
    isBcd State.reset.a = true ∧ isBcd 0x99 = true :=
  ⟨rfl, rfl⟩

theorem test_witness_LoadResult :
    loadForm .a (.mem (.indDpY 0xFF)) = some (.ldaIndDpY 0xFF) ∧ loadForm .x (.mem (.dpY 0xFF)) = some (.ldxDpY 0xFF) ∧
      loadForm .y (.mem (.dpX 0xFF)) = some (.ldyDpX 0xFF) ∧ CanRead busy (Src.cells (.mem (.indDpY 0xFF)) busy) ∧
      Readable busy (busy.dpAddr busy.x) :=
  ⟨rfl, rfl, rfl, busy_allWritable.canRead _, .inl rfl⟩

theorem test_witness_StoreResult :
    storeForm .a (.indDpX 0x00) = some (.staIndDpX 0x00) ∧ storeForm .x (.dpY 0xFF) = some (.stxDpY 0xFF) ∧
      storeForm .y (.abs 0xFFFF) = some (.styAbs 0xFFFF) ∧ CanRead busy ((Mode.indDpX 0x00).pointerCells busy) ∧
      Writable busy ((Mode.indDpX 0x00).ea busy) ∧ Writable busy (busy.dpAddr 0xFF) ∧ Writable busy (busy.dpAddr busy.x) :=
  ⟨rfl, rfl, rfl, busy_allWritable.canRead _, busy_allWritable _, .inl rfl, .inl rfl⟩

theorem test_witness_TransferResult :
    (Instr.tya, 0xBF#8, Reg.y, Reg.a) ∈ [(Instr.tax, 0xE8#8, Reg.a, Reg.x), (.tay, 0x9F#8, .a, .y),
      (.tspx, 0xAE#8, .sp, .x), (.txa, 0xC8#8, .x, .a), (.tya, 0xBF#8, .y, .a)] :=
  by decide

theorem test_witness_ExchangeResult :
    (Instr.xyx, 0xFE#8, Reg.x, Reg.y) ∈ [(Instr.xax, 0xEE#8, Reg.a, Reg.x), (.xay, 0xDE#8, .a, .y),
      (.xyx, 0xFE#8, .x, .y)] :=
  by decide

theorem test_witness_XmaResult :
    xmaForm .indX = some .xmaIndX ∧ xmaForm (.dp 0xFF) = some (.xmaDp 0xFF) ∧ xmaForm (.dpX 0xFF) = some (.xmaDpX 0xFF) ∧
      Writable busy (Mode.indX.ea busy) ∧ Writable busy ((Mode.dp 0xFF).ea busy) ∧ Writable busy ((Mode.dpX 0xFF).ea busy) :=
  ⟨rfl, rfl, rfl, .inl rfl, .inl rfl, .inl rfl⟩

theorem test_witness_pairs :
    CanRead busy (busy.dpCells 0xFF) ∧ CanWrite busy (busy.dpCells 0xFF) ∧ CanRead busy (busy.dpCells 0xFE) :=
  ⟨busy_allWritable.canRead _, busy_allWritable.canWrite _, busy_allWritable.canRead _⟩

theorem test_witness_CarryBitResult :
    (Instr.ldcb 0x0FFF 7, 0xCB#8, true) ∈ [(Instr.and1 0x0FFF 7, 0x8B#8, false), (.and1b 0x0FFF 7, 0x8B#8, true),
      (.or1 0x0FFF 7, 0x6B#8, false), (.or1b 0x0FFF 7, 0x6B#8, true), (.eor1 0x0FFF 7, 0xAB#8, false),
      (.eor1b 0x0FFF 7, 0xAB#8, true), (.ldc 0x0FFF 7, 0xCB#8, false), (.ldcb 0x0FFF 7, 0xCB#8, true)] ∧
      Readable busy 0x0FFF :=
  ⟨by decide, .inl rfl⟩

theorem test_witness_BitStoreResult :
    Writable busy 0x0FFF ∧ Writable busy 0x0000 :=
  ⟨.inl rfl, .inl rfl⟩

theorem test_witness_SetClearBitResult :
    Writable busy (busy.dpAddr 0xFF) ∧ Writable busy (busy.dpAddr 0x00) :=
  ⟨.inl rfl, .inl rfl⟩

theorem test_witness_BitTestResult :
    Readable busy (busy.dpAddr 0xFF) ∧ Readable busy 0xFFFF :=
  ⟨.inl rfl, .inl rfl⟩

theorem test_witness_TestAndSetResult :
    Writable busy 0xFFFF :=
  .inl rfl

theorem test_witness_BitBranchResult :
    Readable busy (busy.dpAddr 0xFF) :=
  .inl rfl

theorem test_witness_FlagBranchResult :
    branchForm .z true 0x80 = some (.beq 0x80) ∧ branchForm .v false 0x7F = some (.bvc 0x7F) :=
  ⟨rfl, rfl⟩

theorem test_witness_CompareBranchResult :
    cbneForm (.dpX 0xFF) 0x80 = some (.cbneDpX 0xFF 0x80) ∧ Readable busy ((Mode.dpX 0xFF).ea busy) ∧
      cbneForm (.dp 0x00) 0x7F = some (.cbneDp 0x00 0x7F) ∧ Readable busy ((Mode.dp 0x00).ea busy) :=
  ⟨rfl, .inl rfl, rfl, .inl rfl⟩

theorem test_witness_DecrementBranchResult :
    Writable busy (busy.dpAddr 0xFF) :=
  .inl rfl

theorem test_witness_JumpResult :
    CanRead busy (pairCells 0xFFFF) ∧ CanRead busy (busy.dpCells 0xFF) :=
  ⟨busy_allWritable.canRead _, busy_allWritable.canRead _⟩

theorem test_witness_CallResult :
    CanWrite busy busy.callCells ∧ CanRead busy (busy.dpCells 0xFF) :=
  ⟨busy_allWritable.canWrite _, busy_allWritable.canRead _⟩

theorem test_witness_TableCallResult :
    CanWrite busy busy.callCells ∧ CanRead busy (pairCells (BitVec.ofNat 16 (0xFFDE - 2 * (15#4).toNat))) :=
  ⟨busy_allWritable.canWrite _, busy_allWritable.canRead _⟩

theorem test_witness_PushResult :
    Writable busy (stackCell busy.sp) ∧ Writable State.reset (stackCell State.reset.sp) :=
  ⟨.inl rfl, .inl rfl⟩

theorem test_witness_PopResult :
    Readable busy (stackCell (busy.sp + 1#8)) ∧ Readable State.reset (stackCell (State.reset.sp + 1#8)) :=
  ⟨.inl rfl, .inl rfl⟩

theorem test_witness_ReturnResult :
    CanRead busy [stackCell (busy.sp + 1#8), stackCell (busy.sp + 2#8)] ∧
      CanRead busy [stackCell (busy.sp + 1#8), stackCell (busy.sp + 2#8), stackCell (busy.sp + 3#8)] :=
  ⟨busy_allWritable.canRead _, busy_allWritable.canRead _⟩

theorem test_witness_BrkEntry :
    CanWrite busy busy.entryCells ∧ CanRead busy (pairCells 0xFFDE) :=
  ⟨busy_allWritable.canWrite _, busy_allWritable.canRead _⟩

/-- I = 1 and a request of the highest admissible vector. -/
def requested : State := { State.reset with psw := 0x04, sp := 0x01, irqTable := twoSources }

theorem test_witness_InterruptAccepted :
    irqTableOk requested.irqTable = true ∧ requested.resetRequest = false ∧ requested.stopped = false ∧
      requested.iShadow = false ∧ requested.flag .i = true ∧
      (∃ src ∈ requested.irqTable, requested.eligible src = true ∧
        (∀ e ∈ requested.irqTable, requested.eligible e = true → e.priority ≤ src.priority) ∧
        CanRead requested (pairCells src.vector)) ∧
      CanWrite requested requested.entryCells :=
  ⟨by decide, rfl, rfl, rfl, rfl,
    ⟨twoSources[1], by decide, by decide, by decide, AllWritable.canRead (fun _ => .inl rfl) _⟩,
    AllWritable.canWrite (fun _ => .inl rfl) _⟩

theorem test_witness_InterruptAccepted_register :
    irqTableOk registered.irqTable = true ∧ registered.inv = true ∧
      (∃ src ∈ registered.irqTable, registered.eligible src = true ∧ src.request = .register 0xD1 7 ∧
        CanRead registered (pairCells src.vector)) ∧
      CanWrite registered registered.entryCells :=
  ⟨by decide, by decide,
    ⟨registered.irqTable[0], by decide, by decide, rfl, by
      simp only [pairCells, CanRead_cons, CanRead_nil, and_true]; exact ⟨.inl rfl, .inl rfl⟩⟩, by
      simp only [State.entryCells, CanWrite_cons, CanWrite_nil, and_true]; exact ⟨.inl rfl, .inl rfl, .inl rfl⟩⟩

theorem test_witness_InterruptHeld :
    (State.reset.flag .i = false ∧ State.reset.resetRequest = false ∧ State.reset.stopped = false) ∧
      (requested.flag .i = true ∧ ∀ e ∈ { requested with irqTable := [] }.irqTable, requested.eligible e = false) ∧
      (irqTableOk requested.irqTable = true ∧ { requested with iShadow := true }.iShadow = true ∧
        ∃ src ∈ requested.irqTable, { requested with iShadow := true }.eligible src = true ∧
          ∀ e ∈ requested.irqTable, { requested with iShadow := true }.eligible e = true →
            e.priority ≤ src.priority) ∧
      2 ∈ requested.irqPending :=
  ⟨⟨rfl, rfl, rfl⟩, ⟨rfl, by decide⟩, ⟨by decide, rfl, twoSources[1], by decide, by decide, by decide⟩, by decide⟩

theorem test_witness_InterruptHeld_request :
    runInstr { busy with irqTable := registered.irqTable } =
        .next { busy with irqTable := registered.irqTable, pc := 0x1001 } ∧
      decode [busy.byteAt 0x1000, busy.byteAt 0x1001, busy.byteAt 0x1002] = .ok (.nop, [0x00, 0x00]) ∧
      Access.write 0xD1 ∉ busy.accesses .nop :=
  ⟨rfl, rfl, by decide⟩

theorem test_witness_ResetEvent :
    busy.assertReset.resetRequest = true ∧ CanRead busy.assertReset (pairCells 0xFFFE) :=
  ⟨rfl, AllWritable.canRead (fun _ => .inl rfl) _⟩

theorem test_witness_StoppedUntilReset :
    { busy with stopped := true }.stopped = true ∧ { busy with stopped := true }.resetRequest = false :=
  ⟨rfl, rfl⟩

theorem test_witness_StepRunsDecoded :
    busy.resetRequest = false ∧ busy.stopped = false ∧ busy.requestingSource = none ∧ Instr.nop.wellFormed = true ∧
      decode [busy.byteAt busy.pc, busy.byteAt (busy.pc + 1#16), busy.byteAt (busy.pc + 2#16)] =
        .ok (.nop, [0x00, 0x00]) ∧
      ∀ k, k + [0x00#8, 0x00#8].length < 3 → Readable busy (busy.pc + BitVec.ofNat 16 k) :=
  ⟨rfl, rfl, rfl, rfl, rfl, fun _ _ => busy_allWritable.readable _⟩

/-- Three bytes that wrap past FFFFh. -/
def wrapped : State := place 0xFFFE [0xCB, 0xFF, 0xFF] State.reset

theorem test_witness_StepRunsDecoded_wraps :
    wrapped.requestingSource = none ∧ Instr.wellFormed (.ldcb 0x0FFF 7) = true ∧
      decode [wrapped.byteAt wrapped.pc, wrapped.byteAt (wrapped.pc + 1#16), wrapped.byteAt (wrapped.pc + 2#16)] =
        .ok (.ldcb 0x0FFF 7, []) ∧
      ∀ k, k + ([] : List Byte).length < 3 → Readable wrapped (wrapped.pc + BitVec.ofNat 16 k) :=
  ⟨rfl, rfl, rfl, fun _ _ => .inl rfl⟩

/-- SETA1 and STC with a reserved operand bit. -/
def badSeta1 : State := place 0x1000 [0x0B, 0x10] State.reset

def badStc : State := place 0xFFFE [0xEB, 0x00, 0x10] State.reset

theorem test_witness_FetchStops_illegal :
    State.reset.resetRequest = false ∧ State.reset.stopped = false ∧ State.reset.requestingSource = none ∧
      Readable State.reset State.reset.pc ∧ State.reset.byteAt State.reset.pc = 0x00 :=
  ⟨rfl, rfl, rfl, .inl rfl, rfl⟩

theorem test_witness_FetchStops_abit :
    badSeta1.requestingSource = none ∧ CanRead badSeta1 [badSeta1.pc, badSeta1.pc + 1#16] ∧
      badSeta1.byteAt badSeta1.pc ∈ [0x0B#8, 0x2B#8] ∧
      ∃ k, k < 5 ∧ (badSeta1.byteAt (badSeta1.pc + 1#16)).getLsbD k = true :=
  ⟨rfl, AllWritable.canRead (fun _ => .inl rfl) _, by decide, 4, by decide, by decide⟩

theorem test_witness_FetchStops_mbit :
    badStc.requestingSource = none ∧ CanRead badStc [badStc.pc, badStc.pc + 1#16, badStc.pc + 2#16] ∧
      badStc.byteAt badStc.pc ∈ [0x4B#8, 0xEB#8] ∧ (badStc.byteAt (badStc.pc + 2#16)).getLsbD 4 = true :=
  ⟨rfl, AllWritable.canRead (fun _ => .inl rfl) _, by decide, by decide⟩

theorem test_witness_DecodeEncode :
    Instr.wellFormed (.ldcb 0x0FFF 7) = true ∧ encode (.ldcb 0x0FFF 7) = [0xCB#8, 0xFF#8, 0xFF#8] := by
  decide

theorem test_witness_EncodeDecode :
    decode [0xCB, 0xFF, 0xFF, 0x00] = .ok (.ldcb 0x0FFF 7, [0x00]) :=
  rfl

theorem test_witness_StepKeepsInvariant : busy.inv = true ∧ step busy = .next { busy with pc := 0x1001 } :=
  ⟨by decide, rfl⟩

theorem test_witness_OnlyMemMapStops :
    exec (.staAbs 0xFFFF) mapped = .fault (.memMap 0xFFFF) ∧ exec (.ldaAbs 0x4000) mapped = .fault (.memMap 0x4000) :=
  ⟨rfl, rfl⟩

theorem test_witness_EffectiveAddresses : (0xFE#8 ≠ 0xFF#8) ∧ busy.flag .g = true ∧ State.reset.flag .g = false := by
  decide

theorem test_witness_SourcedEncodings : 
    reads [0x4A] (.tcall 4) = true ∧ reads [0x8B, 0x35, 0x51] (.and1b 0x0135 2) = true := by
  decide

theorem test_witness_MemMapAccess :
    mapped.firstForbidden (mapped.accesses (.incAbs 0x8000)) = some 0x8000 ∧
      mapped.firstForbidden (mapped.accesses (.ldaAbs 0xFFFF)) = none ∧
      mapped.firstForbidden (mapped.accesses (.set1 0 0xFF)) = none ∧
      mapped.firstForbidden (mapped.accesses (.ldaAbs 0x4FFF)) = some 0x4FFF ∧
      mapped.firstForbidden (mapped.entering 0xFFE0) = none := by
  decide

/-- An instruction of two bytes at the last byte before a hole. -/
def cutOff : State := { mapped with pc := 0x3FFF, mem := [(0x3FFF, 0xC4)] }

theorem test_witness_MemMapAccess_fetch :
    cutOff.requestingSource = none ∧ (∃ f, formOf (cutOff.byteAt cutOff.pc) = some (.two f)) ∧
      cutOff.firstForbidden (readsOf [cutOff.pc, cutOff.pc + 1#16]) = some 0x4000 :=
  ⟨rfl, ⟨_, rfl⟩, by decide⟩

theorem test_witness_MemMapAccess_reset :
    mapped.assertReset.resetRequest = true ∧
      mapped.assertReset.firstForbidden (readsOf (pairCells 0xFFFE)) = none := by
  decide

theorem test_witness_WritersOfState : exec .nop busy = .next busy :=
  rfl

theorem test_witness_StepKeepsParameters :
    step { mapped with resetRequest := true } = .next { mapped with x := 0x00 } :=
  rfl

end Sys2Proof.Tests
end

section
/-! SUPPORT. The frame of the statements through every update of State: what an update adds to what may differ. -/

namespace Sys2Proof.Machine

theorem NextWith.imp {o : Outcome} {p q : State → Prop} (h : NextWith o p) (hpq : ∀ t, p t → q t) : NextWith o q :=
  let ⟨t, ho, ht⟩ := h
  ⟨t, ho, hpq t ht⟩

/-! ### setReg -/

/-- The state with the register of that name written. -/
def State.setReg (s : State) (r : Reg) (v : Byte) : State :=
  match r with
  | .a => { s with a := v }
  | .x => { s with x := v }
  | .y => { s with y := v }
  | .sp => { s with sp := v }

theorem loadA_eq_setReg (v : Byte) (s : State) : loadA v s = (s.setReg .a v).setNZ8 v := rfl

theorem loadX_eq_setReg (v : Byte) (s : State) : loadX v s = (s.setReg .x v).setNZ8 v := rfl

theorem loadY_eq_setReg (v : Byte) (s : State) : loadY v s = (s.setReg .y v).setNZ8 v := rfl

theorem State.reg_setReg (s : State) (r k : Reg) (v : Byte) :
    (s.setReg r v).reg k = if r = k then v else s.reg k := by
  cases r <;> cases k <;> rfl

@[simp] theorem State.reg_setReg_same (s : State) (r : Reg) (v : Byte) : (s.setReg r v).reg r = v := by
  simp [State.reg_setReg]

@[simp] theorem State.setReg_pc (s : State) (r : Reg) (v : Byte) : (s.setReg r v).pc = s.pc := by cases r <;> rfl
@[simp] theorem State.setReg_mem (s : State) (r : Reg) (v : Byte) : (s.setReg r v).mem = s.mem := by cases r <;> rfl
@[simp] theorem State.setReg_stopped (s : State) (r : Reg) (v : Byte) : (s.setReg r v).stopped = s.stopped := by
  cases r <;> rfl
@[simp] theorem State.setReg_memMap (s : State) (r : Reg) (v : Byte) : (s.setReg r v).memMap = s.memMap := by
  cases r <;> rfl
@[simp] theorem State.setReg_irqTable (s : State) (r : Reg) (v : Byte) : (s.setReg r v).irqTable = s.irqTable := by
  cases r <;> rfl
@[simp] theorem State.setReg_resetRequest (s : State) (r : Reg) (v : Byte) :
    (s.setReg r v).resetRequest = s.resetRequest := by
  cases r <;> rfl

@[simp] theorem State.flag_setReg (s : State) (r : Reg) (v : Byte) (f : Flag) : (s.setReg r v).flag f = s.flag f := by
  cases r <;> rfl

@[simp] theorem State.byteAt_setReg (s : State) (r : Reg) (v : Byte) (a : Word) :
    (s.setReg r v).byteAt a = s.byteAt a :=
  State.byteAt_congr (s.setReg_mem r v) a

/-! ### The registers through the other updates -/

@[simp] theorem State.reg_setFlag (s : State) (f : Flag) (v : Bool) (r : Reg) : (s.setFlag f v).reg r = s.reg r := by
  cases r <;> rfl

@[simp] theorem State.reg_setNZ8 (s : State) (v : Byte) (r : Reg) : (s.setNZ8 v).reg r = s.reg r := by
  cases r <;> rfl

@[simp] theorem State.reg_storeByte (s : State) (a : Word) (v : Byte) (r : Reg) :
    (s.storeByte a v).reg r = s.reg r := by
  cases r <;> rfl

/-! ### OnlyChanges -/

theorem OnlyChanges.refl (s : State) (regs : List Reg) (flags : List Flag) (cells : List Word) :
    OnlyChanges s s regs flags cells :=
  ⟨fun _ _ => rfl, fun _ _ => rfl, fun _ _ => rfl, rfl, rfl, rfl, rfl⟩

section Frame

variable {s t : State} {regs : List Reg} {flags : List Flag} {cells : List Word}

theorem OnlyChanges.setReg (h : OnlyChanges s t regs flags cells) {r : Reg} (hr : r ∈ regs) (v : Byte) :
    OnlyChanges s (t.setReg r v) regs flags cells := by
  obtain ⟨hregs, hflags, hcells, hconfig⟩ := h
  refine ⟨fun k hk => ?_, by simpa using hflags, by simpa using hcells, by simpa using hconfig⟩
  have hne : r ≠ k := fun e => hk (e ▸ hr)
  rw [State.reg_setReg, if_neg hne, hregs k hk]

theorem OnlyChanges.setFlag (h : OnlyChanges s t regs flags cells) {f : Flag} (hf : f ∈ flags) (v : Bool) :
    OnlyChanges s (t.setFlag f v) regs flags cells := by
  obtain ⟨hregs, hflags, hcells, hconfig⟩ := h
  refine ⟨by simpa using hregs, fun k hk => ?_, by simpa using hcells, by simpa using hconfig⟩
  have hne : f ≠ k := fun e => hk (e ▸ hf)
  rw [State.flag_setFlag, if_neg hne, hflags k hk]

theorem OnlyChanges.setNZ8 (h : OnlyChanges s t regs flags cells) (hn : Flag.n ∈ flags) (hz : Flag.z ∈ flags)
    (v : Byte) : OnlyChanges s (t.setNZ8 v) regs flags cells :=
  (h.setFlag hn _).setFlag hz _

theorem OnlyChanges.storeByte (h : OnlyChanges s t regs flags cells) {a : Word} (ha : a ∈ cells) (v : Byte) :
    OnlyChanges s (t.storeByte a v) regs flags cells := by
  obtain ⟨hregs, hflags, hcells, hconfig⟩ := h
  refine ⟨by simpa using hregs, by simpa using hflags, fun b hb => ?_, by simpa using hconfig⟩
  have hne : a ≠ b := fun e => hb (e ▸ ha)
  rw [State.byteAt_storeByte, if_neg hne, hcells b hb]

end Frame

/-- `setNZ8` makes N and Z those of the byte (R9). -/
theorem NZOf8_setNZ8 (s : State) (v : Byte) : NZOf8 (s.setNZ8 v) v := by
  constructor
  · rw [State.flag_setNZ8, BitVec.msb_eq_getLsbD_last]
  · rw [State.flag_setNZ8, beq_eq_decide]

/-! ### A result with its N and Z -/

/-- A register takes a value and N and Z are set from it: nothing else differs. -/
theorem NextWith_setReg_setNZ8 (s : State) (r : Reg) (v : Byte) :
    NextWith (.next ((s.setReg r v).setNZ8 v)) fun t =>
      t.reg r = v ∧ NZOf8 t (t.reg r) ∧ t.pc = s.pc ∧ OnlyChanges s t [r] [.n, .z] [] := by
  simp only [NextWith_next, State.reg_setNZ8, State.reg_setReg_same]
  exact ⟨trivial, NZOf8_setNZ8 _ v, by simp, ((OnlyChanges.refl ..).setReg (by simp) v).setNZ8 (by simp) (by simp) v⟩

/-- Read-modify-write of a memory operand with N and Z of the result (R37): nothing else differs. -/
theorem NextWith_modifyMode_setNZ8 {m : Mode} {s : State} (hp : CanRead s (m.pointerCells s))
    (hw : Writable s (m.ea s)) (f : Byte → Byte) :
    NextWith (modifyMode m f (fun v t => t.setNZ8 (f v)) s) fun t =>
      t.byteAt (m.ea s) = f (s.byteAt (m.ea s)) ∧ NZOf8 t (t.byteAt (m.ea s)) ∧ t.pc = s.pc ∧
        OnlyChanges s t [] [.n, .z] [m.ea s] := by
  simp only [modifyMode_mapped hp hw, NextWith_next, State.byteAt_setNZ8, State.byteAt_storeByte, if_true]
  exact ⟨trivial, NZOf8_setNZ8 _ _, rfl, ((OnlyChanges.refl ..).storeByte (by simp) _).setNZ8 (by simp) (by simp) _⟩

end Sys2Proof.Machine
end

section
/-! PROOFS. Shifts and rotations, DEC, COM, TST and XCN (R102, R106, R109, R113, R116, R117, R119, R120). -/

namespace Sys2Proof.Machine

/-! ### The bits of the results -/

theorem getLsbD_shiftResult_asl (v : Byte) (c : Bool) {k : Nat} (hk : k < 8) :
    (shiftResult .asl v c).getLsbD k = if k = 0 then false else v.getLsbD (k - 1) := by
  simp only [shiftResult, BitVec.getLsbD_shiftLeft, Nat.lt_one_iff]
  split <;> simp [*]

theorem getLsbD_shiftResult_rol (v : Byte) (c : Bool) {k : Nat} (hk : k < 8) :
    (shiftResult .rol v c).getLsbD k = if k = 0 then c else v.getLsbD (k - 1) := by
  have hlt : k - 1 < 7 := by omega
  simp only [shiftResult, BitVec.getLsbD_append, BitVec.getLsbD_extractLsb', Nat.lt_one_iff]
  split <;> simp [*]

theorem getLsbD_shiftResult_lsr (v : Byte) (c : Bool) {k : Nat} (hk : k < 8) :
    (shiftResult .lsr v c).getLsbD k = if k = 7 then false else v.getLsbD (k + 1) := by
  simp only [shiftResult, BitVec.getLsbD_ushiftRight, Nat.add_comm 1]
  split
  · subst k; exact BitVec.getLsbD_of_ge v 8 le_rfl
  · rfl

theorem getLsbD_shiftResult_ror (v : Byte) (c : Bool) {k : Nat} (hk : k < 8) :
    (shiftResult .ror v c).getLsbD k = if k = 7 then c else v.getLsbD (k + 1) := by
  simp only [shiftResult, BitVec.getLsbD_append, BitVec.getLsbD_extractLsb', Nat.add_comm 1]
  split
  · have hne : k ≠ 7 := by omega
    simp [*]
  · have heq : k = 7 := by omega
    simp [heq]

/-- Exchanging the nibbles moves every bit by four places (R120). -/
theorem getLsbD_nibbleExchange (v : Byte) {k : Nat} (hk : k < 8) :
    (v.extractLsb' 0 4 ++ v.extractLsb' 4 4 : Byte).getLsbD k = v.getLsbD ((k + 4) % 8) := by
  rw [BitVec.getLsbD_append, BitVec.getLsbD_extractLsb', BitVec.getLsbD_extractLsb']
  split
  · have hmod : (k + 4) % 8 = 4 + k := by omega
    simp [*]
  · have hmod : (k + 4) % 8 = 0 + (k - 4) := by omega
    have hlt : k - 4 < 4 := by omega
    simp [*]

theorem toNat_sub_one (v : Byte) : (v - 1#8).toNat = (v.toNat + 255) % 256 := by
  rw [BitVec.toNat_sub, Nat.add_comm]
  rfl

/-! ### The forms of a mnemonic -/

/-- A shift or rotation of A: its op code and its meaning. -/
theorem shiftFormA_spec (op : ShiftOp) (s : State) :
    encode (shiftFormA op) = [stepOpcode (shiftRow op) none] ∧ exec (shiftFormA op) s = .next (shiftA op s) := by
  cases op <;> exact ⟨rfl, rfl⟩

/-- A shift or rotation of memory: its bytes, its meaning, and that no mode of it reads a pointer. -/
theorem shiftFormMem_spec {op : ShiftOp} {m : Mode} {i : Instr} (h : shiftFormMem op m = some i) (s : State) :
    encode i = stepOpcode (shiftRow op) (some m) :: m.bytes ∧ exec i s = shiftMem op m s ∧ m.pointerCells s = [] := by
  unfold shiftFormMem at h
  split at h <;> cases h
  all_goals
    refine ⟨?_, rfl, rfl⟩
    simp only [stepOpcode, shiftRow]
    rfl

/-- DEC of memory: its bytes, its meaning, and that no mode of it reads a pointer. -/
theorem decFormMem_spec {m : Mode} {i : Instr} (h : stepFormMem false m = some i) (s : State) :
    encode i = stepOpcode 5 (some m) :: m.bytes ∧ exec i s = decMem m s ∧ m.pointerCells s = [] := by
  cases m <;> cases h
  all_goals
    refine ⟨?_, rfl, rfl⟩
    simp only [stepOpcode]
    rfl

/-! ### Shifts and rotations -/

/-- A shift or rotation of A: A, C, N and Z, and nothing else. -/
theorem NextWith_shiftA (op : ShiftOp) (s : State) :
    NextWith (.next (shiftA op s)) fun t =>
      t.a = shiftResult op s.a (s.flag .c) ∧ t.flag .c = shiftCarry op s.a ∧ NZOf8 t t.a ∧
        t.pc = s.pc ∧ OnlyChanges s t [.a] [.n, .z, .c] [] := by
  rw [NextWith_next, shiftA, loadA_eq_setReg]
  refine ⟨rfl, by simp [State.flag_setNZ8], NZOf8_setNZ8 _ _, rfl, ?_⟩
  exact (((OnlyChanges.refl ..).setFlag (by simp) _).setReg (by simp) _).setNZ8 (by simp) (by simp) _

/-- A shift or rotation of memory: the cell, C, N and Z, and nothing else. -/
theorem NextWith_shiftMem (op : ShiftOp) {m : Mode} {s : State} (hp : CanRead s (m.pointerCells s))
    (hw : Writable s (m.ea s)) :
    NextWith (shiftMem op m s) fun t =>
      t.byteAt (m.ea s) = shiftResult op (s.byteAt (m.ea s)) (s.flag .c) ∧
        t.flag .c = shiftCarry op (s.byteAt (m.ea s)) ∧ NZOf8 t (t.byteAt (m.ea s)) ∧
        t.pc = s.pc ∧ OnlyChanges s t [] [.n, .z, .c] [m.ea s] := by
  simp only [shiftMem, modifyMode_mapped hp hw, NextWith_next, State.byteAt_setNZ8, State.byteAt_setFlag,
    State.byteAt_storeByte, if_true]
  refine ⟨trivial, by simp [State.flag_setNZ8], NZOf8_setNZ8 _ _, rfl, ?_⟩
  exact (((OnlyChanges.refl ..).storeByte (by simp) _).setFlag (by simp) _).setNZ8 (by simp) (by simp) _

/-! ### DEC -/

/-- DEC of A, X or Y is its op code and one register taking its value minus one (R109). -/
theorem decReg_spec {i : Instr} {op : Byte} {r : Reg}
    (h : (i, op, r) ∈ [(Instr.decA, 0xA8#8, Reg.a), (.decX, 0xAF#8, .x), (.decY, 0xBE#8, .y)]) (s : State) :
    encode i = [op] ∧ exec i s = .next ((s.setReg r (s.reg r - 1#8)).setNZ8 (s.reg r - 1#8)) := by
  simp only [List.mem_cons, Prod.mk.injEq, List.not_mem_nil, or_false] at h
  rcases h with ⟨rfl, rfl, rfl⟩ | ⟨rfl, rfl, rfl⟩ | ⟨rfl, rfl, rfl⟩
  · exact ⟨rfl, congrArg Host.Outcome.next (loadA_eq_setReg _ s)⟩
  · exact ⟨rfl, congrArg Host.Outcome.next (loadX_eq_setReg _ s)⟩
  · exact ⟨rfl, congrArg Host.Outcome.next (loadY_eq_setReg _ s)⟩

end Sys2Proof.Machine

/-! ### The statements -/

namespace Sys2Proof.Proofs

open Sys2Proof.Machine

/-- Settles O6: the bits of the result are a fact about `shiftResult` alone, the same for A and for memory. -/
theorem shiftResult : Obligations.ShiftResult := by
  intro op s top bottom IsResult carry
  have hbits : ∀ v, IsResult v (Machine.shiftResult op v (s.flag .c)) := by
    intro v k hk
    cases op with
    | asl => exact getLsbD_shiftResult_asl v _ hk
    | lsr => exact getLsbD_shiftResult_lsr v _ hk
    | rol => exact getLsbD_shiftResult_rol v _ hk
    | ror => exact getLsbD_shiftResult_ror v _ hk
  have hcarry : ∀ v, shiftCarry op v = carry v := fun _ => by cases op <;> rfl
  constructor
  · obtain ⟨henc, hexec⟩ := shiftFormA_spec op s
    rw [hexec]
    refine ⟨henc, (NextWith_shiftA op s).imp fun t ⟨hr, hc, hrest⟩ => ⟨?_, hc.trans (hcarry _), hrest⟩⟩
    exact hr ▸ hbits _
  · intro m i hi hw
    obtain ⟨henc, hexec, hptr⟩ := shiftFormMem_spec hi s
    rw [hexec]
    refine ⟨henc, (NextWith_shiftMem op (by simp [hptr]) hw).imp fun t ⟨hr, hc, hrest⟩ =>
      ⟨?_, hc.trans (hcarry _), hrest⟩⟩
    exact hr ▸ hbits _

/-- Settles O8, the memory forms by read-modify-write and the register forms by one register update. -/
theorem decrementResult : Obligations.DecrementResult := by
  intro s
  constructor
  · intro m i hi hw
    obtain ⟨henc, hexec, hptr⟩ := decFormMem_spec hi s
    rw [hexec]
    refine ⟨henc, (NextWith_modifyMode_setNZ8 (by simp [hptr]) hw (· - 1#8)).imp fun t ⟨hv, hrest⟩ => ⟨?_, hrest⟩⟩
    rw [hv, toNat_sub_one]
  · intro i op r hi
    obtain ⟨henc, hexec⟩ := decReg_spec hi s
    rw [hexec]
    refine ⟨henc, (NextWith_setReg_setNZ8 s r _).imp fun t ⟨hv, hrest⟩ => ⟨?_, hrest⟩⟩
    rw [hv, toNat_sub_one]

/-- Settles O9: COM is a read-modify-write by the complement; TST reads the byte and only sets flags from it. -/
theorem complementAndTest : Obligations.ComplementAndTest := by
  intro dp s
  constructor
  · intro hw
    refine ⟨rfl, (NextWith_modifyMode_setNZ8 (m := .dp dp) (CanRead_nil s) hw (~~~ ·)).imp fun t ⟨hv, hrest⟩ =>
      ⟨fun k hk => ?_, hrest⟩⟩
    have hcom : t.byteAt (s.dpAddr dp) = ~~~s.byteAt (s.dpAddr dp) := hv
    rw [hcom, BitVec.getLsbD_not, decide_eq_true hk, Bool.true_and]
  · intro hr
    have hcells : CanRead s (Src.cells (.mem (.dp dp)) s) := (CanRead_cons ..).mpr ⟨hr, CanRead_nil s⟩
    have hexec : exec (.tst dp) s = .next (s.setNZ8 (s.byteAt (s.dpAddr dp))) :=
      withSrc_readable hcells fun m => .next (s.setNZ8 m)
    rw [hexec, NextWith_next]
    exact ⟨rfl, NZOf8_setNZ8 s _, rfl, (OnlyChanges.refl ..).setNZ8 (by simp) (by simp) _⟩

/-- Settles O14: XCN loads A with its nibbles exchanged. -/
theorem nibbleExchange : Obligations.NibbleExchange := by
  intro s
  have hexec : exec .xcn s = .next (loadA (s.a.extractLsb' 0 4 ++ s.a.extractLsb' 4 4) s) := rfl
  rw [hexec, loadA_eq_setReg]
  refine ⟨rfl, (NextWith_setReg_setNZ8 s .a _).imp fun t ⟨hv, hrest⟩ => ⟨fun k hk => ?_, hrest⟩⟩
  have hxcn : t.a = s.a.extractLsb' 0 4 ++ s.a.extractLsb' 4 4 := hv
  rw [hxcn, getLsbD_nibbleExchange s.a hk]

end Sys2Proof.Proofs
end

section
/-! PROOFS. The register transfers and exchanges (R137 to R140, R142 to R144, R146). -/

namespace Sys2Proof.Machine

/-- A transfer is its op code and the destination taking the source with its N and Z. -/
theorem transfer_spec {i : Instr} {op : Byte} {src dst : Reg}
    (h : (i, op, src, dst) ∈ [(Instr.tax, 0xE8#8, Reg.a, Reg.x), (.tay, 0x9F#8, .a, .y), (.tspx, 0xAE#8, .sp, .x),
      (.txa, 0xC8#8, .x, .a), (.tya, 0xBF#8, .y, .a)]) (s : State) :
    encode i = [op] ∧ exec i s = .next ((s.setReg dst (s.reg src)).setNZ8 (s.reg src)) := by
  simp only [List.mem_cons, Prod.mk.injEq, List.not_mem_nil, or_false] at h
  rcases h with ⟨rfl, rfl, rfl, rfl⟩ | ⟨rfl, rfl, rfl, rfl⟩ | ⟨rfl, rfl, rfl, rfl⟩ | ⟨rfl, rfl, rfl, rfl⟩ |
    ⟨rfl, rfl, rfl, rfl⟩
  · exact ⟨rfl, congrArg Host.Outcome.next (loadX_eq_setReg _ s)⟩
  · exact ⟨rfl, congrArg Host.Outcome.next (loadY_eq_setReg _ s)⟩
  · exact ⟨rfl, congrArg Host.Outcome.next (loadX_eq_setReg _ s)⟩
  · exact ⟨rfl, congrArg Host.Outcome.next (loadA_eq_setReg _ s)⟩
  · exact ⟨rfl, congrArg Host.Outcome.next (loadA_eq_setReg _ s)⟩

/-- The state with two registers exchanged. -/
def State.swapReg (s : State) (p q : Reg) : State := (s.setReg p (s.reg q)).setReg q (s.reg p)

theorem State.reg_swapReg_left (s : State) (p q : Reg) : (s.swapReg p q).reg p = s.reg q := by
  rw [State.swapReg, State.reg_setReg]
  split
  · next hqp => rw [hqp]
  · exact State.reg_setReg_same ..

theorem State.reg_swapReg_right (s : State) (p q : Reg) : (s.swapReg p q).reg q = s.reg p :=
  State.reg_setReg_same ..

/-- Two registers change places: nothing else differs. -/
theorem NextWith_swapReg (s : State) (p q : Reg) :
    NextWith (.next (s.swapReg p q)) fun t =>
      t.reg p = s.reg q ∧ t.reg q = s.reg p ∧ t.pc = s.pc ∧ OnlyChanges s t [p, q] [] [] := by
  rw [NextWith_next]
  refine ⟨s.reg_swapReg_left p q, s.reg_swapReg_right p q, by simp [State.swapReg], ?_⟩
  exact ((OnlyChanges.refl ..).setReg (by simp) _).setReg (by simp) _

/-- An exchange is its op code and two registers changing places. -/
theorem exchange_spec {i : Instr} {op : Byte} {p q : Reg}
    (h : (i, op, p, q) ∈ [(Instr.xax, 0xEE#8, Reg.a, Reg.x), (.xay, 0xDE#8, .a, .y), (.xyx, 0xFE#8, .x, .y)])
    (s : State) :
    encode i = [op] ∧ exec i s = .next (s.swapReg p q) := by
  simp only [List.mem_cons, Prod.mk.injEq, List.not_mem_nil, or_false] at h
  rcases h with ⟨rfl, rfl, rfl, rfl⟩ | ⟨rfl, rfl, rfl, rfl⟩ | ⟨rfl, rfl, rfl, rfl⟩ <;> exact ⟨rfl, rfl⟩

end Sys2Proof.Machine

/-! ### The statements -/

namespace Sys2Proof.Proofs

open Sys2Proof.Machine

/-- Settles O17: each transfer is one register taking the value of another, with its N and Z. -/
theorem transferResult : Obligations.TransferResult := by
  intro i op src dst s hi
  obtain ⟨henc, hexec⟩ := transfer_spec hi s
  rw [hexec]
  refine ⟨henc, (NextWith_setReg_setNZ8 s dst (s.reg src)).imp fun t ⟨hv, hnz, hrest⟩ => ⟨hv, ?_, hrest⟩⟩
  rwa [hv] at hnz

/-- Settles O19: each exchange is two registers changing places. -/
theorem exchangeResult : Obligations.ExchangeResult := by
  intro i op p q s hi
  obtain ⟨henc, hexec⟩ := exchange_spec hi s
  rw [hexec]
  exact ⟨henc, NextWith_swapReg s p q⟩

end Sys2Proof.Proofs
end

section
/-! PROOFS. Bit manipulation: the carry operations, writing one bit, the flag instructions and BIT (R160 to R179,
R213). -/

namespace Sys2Proof.Machine

/-! ### One bit of a byte -/

theorem getLsbD_bitMask (b : BitNo) {k : Nat} (hk : k < 8) : (bitMask b).getLsbD k = decide (k = b.toNat) := by
  rw [bitMask, BitVec.getLsbD_shiftLeft, BitVec.getLsbD_one, Bool.eq_iff_iff]
  simp only [Bool.and_eq_true, Bool.not_eq_true', decide_eq_true_eq, decide_eq_false_iff_not]
  omega

/-- A byte with one bit written, the others kept. -/
def withBit (v : Byte) (b : BitNo) (on : Bool) : Byte := if on then withBitSet v b else withBitClear v b

theorem getLsbD_withBit (v : Byte) (b : BitNo) (on : Bool) {k : Nat} (hk : k < 8) :
    (withBit v b on).getLsbD k = if k = b.toNat then on else v.getLsbD k := by
  cases on with
  | true =>
    have hset : (withBit v b true).getLsbD k = (v.getLsbD k || decide (k = b.toNat)) := by
      rw [← getLsbD_bitMask b hk]
      exact BitVec.getLsbD_or
    rw [hset]
    split <;> simp [*]
  | false =>
    have hclear : (withBit v b false).getLsbD k = (v.getLsbD k && !decide (k = b.toNat)) := by
      rw [← getLsbD_bitMask b hk]
      simp [withBit, withBitClear, hk]
    rw [hclear]
    split <;> simp [*]

theorem getLsbD_xor_bitMask (v : Byte) (b : BitNo) {k : Nat} (hk : k < 8) :
    (v ^^^ bitMask b).getLsbD k = if k = b.toNat then !v.getLsbD k else v.getLsbD k := by
  rw [BitVec.getLsbD_xor, getLsbD_bitMask b hk]
  split <;> simp [*]

/-- Two bytes have no bit in common exactly when their AND is zero. -/
theorem and_beq_zero_iff (v w : Byte) : (v &&& w == 0#8) = true ↔ ∀ k, (v.getLsbD k && w.getLsbD k) = false := by
  simp only [beq_iff_eq, ← BitVec.getLsbD_and]
  constructor
  · intro h k
    rw [h, BitVec.getLsbD_zero]
  · intro h
    exact BitVec.eq_of_getLsbD_eq fun k _ => by rw [h k, BitVec.getLsbD_zero]

/-! ### One update and nothing else -/

theorem NextWith_setFlag (s : State) (f : Flag) (v : Bool) :
    NextWith (.next (s.setFlag f v)) fun t => t.flag f = v ∧ t.pc = s.pc ∧ OnlyChanges s t [] [f] [] := by
  rw [NextWith_next]
  exact ⟨State.flag_setFlag_same .., rfl, (OnlyChanges.refl ..).setFlag (by simp) v⟩

theorem NextWith_setReg (s : State) (r : Reg) (v : Byte) :
    NextWith (.next (s.setReg r v)) fun t => t.reg r = v ∧ t.pc = s.pc ∧ OnlyChanges s t [r] [] [] := by
  rw [NextWith_next]
  exact ⟨State.reg_setReg_same .., State.setReg_pc .., (OnlyChanges.refl ..).setReg (by simp) v⟩

/-- Read-modify-write of one cell that touches no flag (R37). -/
theorem NextWith_modifyAt {s : State} {addr : Word} (hw : Writable s addr) (f : Byte → Byte) :
    NextWith (modifyAt addr f (fun _ t => t) s) fun t =>
      t.byteAt addr = f (s.byteAt addr) ∧ t.pc = s.pc ∧ OnlyChanges s t [] [] [addr] := by
  rw [modifyAt_writable hw, NextWith_next, State.byteAt_storeByte, if_pos rfl]
  exact ⟨rfl, rfl, (OnlyChanges.refl ..).storeByte (by simp) _⟩

/-- A bit operation on C reads its cell and writes C (R160, R161, R168 to R171, R173, R174). -/
theorem NextWith_carryWithBit {s : State} {addr : Word} (hr : Readable s addr) (b : BitNo) (f : Bool → Bool → Bool) :
    NextWith (carryWithBit addr b f s) fun t =>
      t.flag .c = f (s.flag .c) ((s.byteAt addr).getLsbD b.toNat) ∧ t.pc = s.pc ∧ OnlyChanges s t [] [.c] [] := by
  rw [carryWithBit, withByte_readable hr]
  exact NextWith_setFlag s .c _

/-- BIT reads its cell and writes Z, N and V (R162). -/
theorem NextWith_testBits {s : State} {addr : Word} (hr : Readable s addr) :
    NextWith (withByte s addr fun m => .next (testBits m s)) fun t =>
      (t.flag .z = true ↔ ∀ k, (s.a.getLsbD k && (s.byteAt addr).getLsbD k) = false) ∧
        t.flag .n = (s.byteAt addr).getLsbD 7 ∧ t.flag .v = (s.byteAt addr).getLsbD 6 ∧
        t.pc = s.pc ∧ OnlyChanges s t [] [.n, .v, .z] [] := by
  have hz : (testBits (s.byteAt addr) s).flag .z = (s.a &&& s.byteAt addr == 0#8) := by
    simp [testBits, State.flag_setFlag]
  rw [withByte_readable hr, NextWith_next, hz]
  refine ⟨and_beq_zero_iff s.a _, by simp [testBits, State.flag_setFlag], State.flag_setFlag_same .., rfl, ?_⟩
  exact (((OnlyChanges.refl ..).setFlag (by simp) _).setFlag (by simp) _).setFlag (by simp) _

/-- G alone is the page of a direct-page address (R72). -/
theorem State.dpAddr_of_flag {s : State} {v : Bool} (h : s.flag .g = v) (off : Byte) :
    s.dpAddr off = (if v then 0x01#8 else 0x00#8) ++ off := by
  rw [State.dpAddr, h]
  rfl

/-! ### The instructions that write one bit of a byte -/

theorem exec_stc (addr : Word) (b : BitNo) (s : State) :
    exec (.stc addr b) s = modifyAt addr (withBit · b (s.flag .c)) (fun _ t => t) s := rfl

theorem exec_set1_clr1 (b : BitNo) (dp : Byte) (v : Bool) (s : State) :
    exec (if v then .set1 b dp else .clr1 b dp) s = modifyAt (s.dpAddr dp) (withBit · b v) (fun _ t => t) s := by
  cases v <;> rfl

theorem exec_seta1_clra1 (b : BitNo) (v : Bool) (s : State) :
    exec (if v then .seta1 b else .clra1 b) s = .next (s.setReg .a (withBit s.a b v)) := by
  cases v <;> rfl

end Sys2Proof.Machine

/-! ### The statements -/

namespace Sys2Proof.Proofs

open Sys2Proof.Machine

/-- Settles O25: each of the eight is `carryWithBit` with its function of C and the memory bit. -/
theorem carryBitResult : Obligations.CarryBitResult := by
  intro i op rev f addr b s hi hr
  have hspec : encode i = encMBit op rev addr b ∧ exec i s = carryWithBit addr b f s := by
    simp only [List.mem_cons, Prod.mk.injEq, List.not_mem_nil, or_false] at hi
    rcases hi with ⟨rfl, rfl, rfl, rfl⟩ | ⟨rfl, rfl, rfl, rfl⟩ | ⟨rfl, rfl, rfl, rfl⟩ | ⟨rfl, rfl, rfl, rfl⟩ |
      ⟨rfl, rfl, rfl, rfl⟩ | ⟨rfl, rfl, rfl, rfl⟩ | ⟨rfl, rfl, rfl, rfl⟩ | ⟨rfl, rfl, rfl, rfl⟩ <;> exact ⟨rfl, rfl⟩
  obtain ⟨henc, hexec⟩ := hspec
  rw [hexec]
  exact ⟨henc, NextWith_carryWithBit hr b f⟩

/-- Settles O26: both are a read-modify-write of one cell, by the complement of a bit or by writing it. -/
theorem bitStoreResult : Obligations.BitStoreResult := by
  intro addr b s hw
  constructor
  · have hexec : exec (.not1 addr b) s = modifyAt addr (· ^^^ bitMask b) (fun _ t => t) s := rfl
    rw [hexec]
    refine ⟨rfl, (NextWith_modifyAt hw _).imp fun t ⟨hv, hrest⟩ => ⟨fun k hk => ?_, hrest⟩⟩
    rw [hv, getLsbD_xor_bitMask _ b hk]
  · rw [exec_stc]
    refine ⟨rfl, (NextWith_modifyAt hw _).imp fun t ⟨hv, hrest⟩ => ⟨fun k hk => ?_, hrest⟩⟩
    rw [hv, getLsbD_withBit _ b _ hk]

/-- Settles O27: one bit written, in a read-modify-write of a cell or in A. -/
theorem setClearBitResult : Obligations.SetClearBitResult := by
  intro b s
  constructor
  · intro dp v hw
    rw [exec_set1_clr1]
    refine ⟨by cases v <;> rfl, (NextWith_modifyAt hw _).imp fun t ⟨hv, hrest⟩ => ⟨fun k hk => ?_, hrest⟩⟩
    rw [hv, getLsbD_withBit _ b v hk]
  · intro v
    rw [exec_seta1_clra1]
    refine ⟨by cases v <;> rfl, (NextWith_setReg s .a _).imp fun t ⟨hv, hrest⟩ => ⟨fun k hk => ?_, hrest⟩⟩
    have ha : t.a = withBit s.a b v := hv
    rw [ha, getLsbD_withBit _ b v hk]

/-- Settles O28: each is one or two flags written; the page of a direct-page address follows from G. -/
theorem flagInstructionResult : Obligations.FlagInstructionResult := by
  intro s
  refine ⟨⟨rfl, NextWith_setFlag s .c false⟩, ⟨rfl, NextWith_setFlag s .c true⟩,
    ⟨rfl, (NextWith_setFlag s .g false).imp fun t ⟨hg, hrest⟩ =>
      ⟨hg, fun off => by rw [State.dpAddr_of_flag hg, if_neg Bool.false_ne_true], hrest⟩⟩,
    ⟨rfl, (NextWith_setFlag s .g true).imp fun t ⟨hg, hrest⟩ =>
      ⟨hg, fun off => by rw [State.dpAddr_of_flag hg, if_pos rfl], hrest⟩⟩,
    ⟨rfl, ?clrv⟩, ⟨rfl, ?nop⟩⟩
  case clrv =>
    have hexec : exec .clrv s = .next ((s.setFlag .v false).setFlag .h false) := rfl
    rw [hexec, NextWith_next]
    refine ⟨by simp [State.flag_setFlag], State.flag_setFlag_same .., rfl, ?_⟩
    exact ((OnlyChanges.refl ..).setFlag (by simp) _).setFlag (by simp) _
  case nop =>
    have hexec : exec .nop s = .next s := rfl
    rw [hexec, NextWith_next]
    exact ⟨rfl, OnlyChanges.refl ..⟩

/-- Settles O29: both forms are `testBits` of the byte in their cell. -/
theorem bitTestResult : Obligations.BitTestResult := by
  intro s
  constructor
  · intro dp hr
    have hexec : exec (.bitDp dp) s = withByte s (s.dpAddr dp) fun m => .next (testBits m s) := rfl
    rw [hexec]
    exact ⟨rfl, NextWith_testBits hr⟩
  · intro addr hr
    have hexec : exec (.bitAbs addr) s = withByte s addr fun m => .next (testBits m s) := rfl
    rw [hexec]
    exact ⟨rfl, NextWith_testBits hr⟩

end Sys2Proof.Proofs
end

section
/-! PROOFS. The branches on a bit of A or memory, the branches on a flag, and BRA (R190 to R200). -/

namespace Sys2Proof.Machine

/-! ### A branch and nothing else -/

/-- The sum modulo 65536 with the sign-extended displacement is the exact target reduced once (R85, D1). -/
theorem add_sext16_eq_branchTarget (pc : Word) (rel : Byte) : pc + sext16 rel = branchTarget pc rel := by
  have hpc : BitVec.ofInt 16 (pc.toNat : Int) = pc := by
    rw [BitVec.ofInt_natCast, BitVec.ofNat_toNat, BitVec.setWidth_eq]
  rw [branchTarget, BitVec.ofInt_add, hpc]
  rfl

theorem State.branch_pc (s : State) (rel : Byte) : (s.branch rel).pc = branchTarget s.pc rel :=
  add_sext16_eq_branchTarget s.pc rel

theorem State.branchIf_pc (s : State) (c : Bool) (rel : Byte) :
    (s.branchIf c rel).pc = if c then branchTarget s.pc rel else s.pc := by
  cases c with
  | true => exact s.branch_pc rel
  | false => rfl

@[simp] theorem State.reg_branchIf (s : State) (c : Bool) (rel : Byte) (r : Reg) :
    (s.branchIf c rel).reg r = s.reg r := by
  cases r <;> simp [State.reg]

/-- A branch, taken or not, adds nothing to a frame: PC is not spoken of there. -/
theorem OnlyChanges.branchIf {s t : State} {regs : List Reg} {flags : List Flag} {cells : List Word}
    (h : OnlyChanges s t regs flags cells) (c : Bool) (rel : Byte) :
    OnlyChanges s (t.branchIf c rel) regs flags cells := by
  obtain ⟨hregs, hflags, hcells, hconfig⟩ := h
  exact ⟨by simpa using hregs, by simpa using hflags, by simpa using hcells, by simpa using hconfig⟩

/-- `if x == v then branch(rel)`: PC is the target or unchanged, and nothing else differs. -/
theorem NextWith_branchIf (s : State) (x v : Bool) (rel : Byte) :
    NextWith (.next (s.branchIf (x == v) rel)) fun t =>
      t.pc = (if x = v then branchTarget s.pc rel else s.pc) ∧ OnlyChanges s t [] [] [] := by
  rw [NextWith_next, State.branchIf_pc]
  exact ⟨by simp only [beq_iff_eq], (OnlyChanges.refl ..).branchIf _ rel⟩

/-! ### The forms of a branch -/

/-- BBS and BBC on A branch when the bit equals the value their mnemonic names (R190, R191). -/
theorem exec_bbsA_bbcA (b : BitNo) (rel : Byte) (v : Bool) (s : State) :
    exec (if v then .bbsA b rel else .bbcA b rel) s = .next (s.branchIf (s.a.getLsbD b.toNat == v) rel) := by
  cases v with
  | true => rw [beq_true]; rfl
  | false => rw [beq_false]; rfl

/-- BBS and BBC on a direct-page cell branch when the bit equals the value their mnemonic names (R190, R191). -/
theorem exec_bbsDp_bbcDp (b : BitNo) (rel : Byte) (v : Bool) {dp : Byte} {s : State} (hr : Readable s (s.dpAddr dp)) :
    exec (if v then .bbsDp b dp rel else .bbcDp b dp rel) s =
      .next (s.branchIf ((s.byteAt (s.dpAddr dp)).getLsbD b.toNat == v) rel) := by
  cases v with
  | true => rw [beq_true]; exact withByte_readable hr fun m => .next (s.branchIf (bitOf m b) rel)
  | false => rw [beq_false]; exact withByte_readable hr fun m => .next (s.branchIf (!bitOf m b) rel)

/-- A flag branch: its op code, and that it branches when the flag equals the value its mnemonic names. -/
theorem branchForm_spec {f : Flag} {v : Bool} {rel : Byte} {i : Instr} (h : branchForm f v rel = some i) (s : State) :
    encode i = [branchOpcode f v, rel] ∧ exec i s = .next (s.branchIf (s.flag f == v) rel) := by
  unfold branchForm at h
  split at h <;> cases h
  all_goals
    simp only [beq_true, beq_false]
    exact ⟨rfl, rfl⟩

end Sys2Proof.Machine

/-! ### The statements -/

namespace Sys2Proof.Proofs

open Sys2Proof.Machine

/-- Settles O31: on A and on memory alike, one branch on the bit being equal to the value the mnemonic names. -/
theorem bitBranchResult : Obligations.BitBranchResult := by
  intro b rel v s
  constructor
  · rw [exec_bbsA_bbcA]
    exact ⟨by cases v <;> rfl, NextWith_branchIf s _ v rel⟩
  · intro dp hr
    rw [exec_bbsDp_bbcDp b rel v hr]
    exact ⟨by cases v <;> rfl, NextWith_branchIf s _ v rel⟩

/-- Settles O32: each flag branch is one branch on the flag being equal to the value named; BRA always branches. -/
theorem flagBranchResult : Obligations.FlagBranchResult := by
  intro rel s
  constructor
  · intro f v i hi
    obtain ⟨henc, hexec⟩ := branchForm_spec hi s
    rw [hexec]
    exact ⟨henc, NextWith_branchIf s (s.flag f) v rel⟩
  · have hexec : exec (.bra rel) s = .next (s.branchIf true rel) := rfl
    rw [hexec, NextWith_next]
    exact ⟨rfl, s.branch_pc rel, (OnlyChanges.refl ..).branchIf true rel⟩

end Sys2Proof.Proofs
end

section
/-! PROOFS. The encoder and the decoder are inverse to each other (R50 to R58, R62). -/

namespace Sys2Proof

open Machine

/-! ### The fields of an operand byte, from the bytes to the instruction -/

/-- A byte whose low five bits are zero is its bit number over zeros (R56, D7). -/
theorem upperBitNo_append_zero {v : Byte} (h : v &&& 0x1F = 0) : upperBitNo v ++ 0#5 = v := by
  revert v
  decide

/-- The address bits of byte 2 of an `M.bit` instruction are its low four (R57). -/
theorem extractLsb'_mbitAddr (op2 lo : Byte) : (mbitAddr op2 lo).extractLsb' 8 4 = op2.extractLsb' 0 4 := by
  have hnibble : ∀ v : Byte, (v &&& 0x0F).extractLsb' 0 4 = v.extractLsb' 0 4 := by decide
  calc (mbitAddr op2 lo).extractLsb' 8 4
      = (hiByte (mbitAddr op2 lo)).extractLsb' 0 4 := BitVec.eq_of_getLsbD_eq fun k hk => by
        simp only [hk, BitVec.getLsbD_eq_getElem, BitVec.getElem_extractLsb', hiByte, zero_add,
          BitVec.getLsbD_extractLsb', Bool.eq_and_self, decide_eq_true_eq]
        omega
    _ = (op2 &&& 0x0F).extractLsb' 0 4 := by rw [mbitAddr, hiByte_mkWord]
    _ = op2.extractLsb' 0 4 := hnibble op2

/-- Byte 2 of an `M.bit` instruction is its bit number, its reversal bit and four address bits (R57). -/
theorem mbitOperand_fields (op2 lo : Byte) :
    mbitOperand (upperBitNo op2) (op2.getLsbD 4) (mbitAddr op2 lo) = op2 := by
  have hfields : ∀ v : Byte, (upperBitNo v ++ BitVec.ofBool (v.getLsbD 4) ++ v.extractLsb' 0 4 : Byte) = v := by decide
  rw [mbitOperand, extractLsb'_mbitAddr, hfields]

/-- The three bytes of an `M.bit` instruction, from the fields read out of the operand bytes (R57). -/
theorem encMBit_fields {op lo op2 : Byte} {rev : Bool} (h : op2.getLsbD 4 = rev) :
    encMBit op rev (mbitAddr op2 lo) (upperBitNo op2) = [op, lo, op2] := by
  rw [encMBit, ← h, mbitOperand_fields, mbitAddr, loByte_mkWord]

/-- An `M.bit` address has 12 bits (R91). -/
theorem mbitAddrOk_mbitAddr (op2 lo : Byte) : mbitAddrOk (mbitAddr op2 lo) = true := by
  have hnibble : ∀ v : Byte, (v &&& 0x0F).toNat < 16 := by decide
  have := hnibble op2
  have := lo.isLt
  rw [mbitAddrOk, decide_eq_true_eq, mbitAddr, mkWord_toNat]
  omega

/-! ### What an op code selects encodes to the bytes it was selected by -/

/-- Whatever the form found under `op` completes to is well formed and encodes to `op` and the operand bytes read. -/
def FormSound (op : Byte) : Option Form → Prop
  | none => True
  | some (.one i) => i.wellFormed = true ∧ encode i = [op]
  | some (.two k) => ∀ v i, k v = some i → i.wellFormed = true ∧ encode i = [op, v]
  | some (.three k) => ∀ v w i, k v w = some i → i.wellFormed = true ∧ encode i = [op, v, w]

theorem FormSound.inh {op : Byte} {i : Instr} (hw : i.wellFormed = true := by rfl) (h : encode i = [op] := by rfl) :
    FormSound op (inh i) :=
  ⟨hw, h⟩

theorem FormSound.op1 {op : Byte} {f : Byte → Instr} (hw : ∀ v, (f v).wellFormed = true := by exact fun _ => rfl)
    (h : ∀ v, encode (f v) = [op, v] := by exact fun _ => rfl) : FormSound op (op1 f) := by
  rintro v i ⟨⟩
  exact ⟨hw v, h v⟩

theorem FormSound.op2 {op : Byte} {f : Byte → Byte → Instr}
    (hw : ∀ v w, (f v w).wellFormed = true := by exact fun _ _ => rfl)
    (h : ∀ v w, encode (f v w) = [op, v, w] := by exact fun _ _ => rfl) : FormSound op (op2 f) := by
  rintro v w i ⟨⟩
  exact ⟨hw v w, h v w⟩

theorem FormSound.opAbs {op : Byte} {f : Word → Instr} (hw : ∀ a, (f a).wellFormed = true := by exact fun _ => rfl)
    (h : ∀ a, encode (f a) = encAbs op a := by exact fun _ => rfl) : FormSound op (opAbs f) := by
  rintro lo hi i ⟨⟩
  exact ⟨hw _, by rw [h, encAbs, loByte_mkWord, hiByte_mkWord]⟩

theorem FormSound.opABit {op : Byte} {f : BitNo → Instr} (hw : ∀ b, (f b).wellFormed = true := by exact fun _ => rfl)
    (h : ∀ b, encode (f b) = encABit op b := by exact fun _ => rfl) : FormSound op (opABit f) := by
  intro v i hi
  obtain ⟨hzero, heq⟩ := Option.ite_none_right_eq_some.mp hi
  cases heq
  exact ⟨hw _, by rw [h, encABit, upperBitNo_append_zero hzero]⟩

theorem FormSound.opMBit {op : Byte} {f g : Word → BitNo → Instr}
    (hf : ∀ a b, (f a b).wellFormed = mbitAddrOk a := by exact fun _ _ => rfl)
    (hg : ∀ a b, (g a b).wellFormed = mbitAddrOk a := by exact fun _ _ => rfl)
    (ef : ∀ a b, encode (f a b) = encMBit op false a b := by exact fun _ _ => rfl)
    (eg : ∀ a b, encode (g a b) = encMBit op true a b := by exact fun _ _ => rfl) : FormSound op (opMBit f g) := by
  rintro lo op2 i ⟨⟩
  cases hrev : op2.getLsbD 4 with
  | true => exact ⟨(hg _ _).trans (mbitAddrOk_mbitAddr op2 lo), (eg _ _).trans (encMBit_fields hrev)⟩
  | false => exact ⟨(hf _ _).trans (mbitAddrOk_mbitAddr op2 lo),
    (ef _ _).trans (encMBit_fields hrev)⟩

theorem FormSound.opMBitPlain {op : Byte} {f : Word → BitNo → Instr}
    (hf : ∀ a b, (f a b).wellFormed = mbitAddrOk a := by exact fun _ _ => rfl)
    (ef : ∀ a b, encode (f a b) = encMBit op false a b := by exact fun _ _ => rfl) : FormSound op (opMBitPlain f) := by
  intro lo op2 i hi
  obtain ⟨hrev, heq⟩ := Option.ite_none_left_eq_some.mp hi
  cases heq
  exact ⟨(hf _ _).trans (mbitAddrOk_mbitAddr op2 lo),
    (ef _ _).trans (encMBit_fields (Bool.eq_false_of_not_eq_true hrev))⟩

/-! ### The sixteen rows of the opcode map -/

/-- Every form of a row is sound under its op code, the first under `op`. -/
def RowSound (op : Byte) : List (Option Form) → Prop
  | [] => True
  | f :: row => FormSound op f ∧ RowSound (op + 1#8) row

theorem RowSound.getD {op : Byte} {row : List (Option Form)} (h : RowSound op row) (k : Nat) :
    FormSound (op + BitVec.ofNat 8 k) (row.getD k none) := by
  induction row generalizing op k with
  | nil => exact trivial
  | cons f row ih =>
    obtain ⟨hf, hrow⟩ := h
    cases k with
    | zero => rwa [show op + BitVec.ofNat 8 0 = op from BitVec.add_zero op]
    | succ k =>
      have hop : op + BitVec.ofNat 8 (k + 1) = op + 1#8 + BitVec.ofNat 8 k := by
        rw [BitVec.add_assoc, ← BitVec.ofNat_add, Nat.add_comm 1]
      rw [hop]
      exact ih hrow k

theorem rowSound_0 : RowSound 0x00 opcodeRow0 :=
  ⟨trivial, .op1, .op1, .op2, .op1, .op1, .op1, .opAbs,
    .inh, .op1, .inh, .opABit, .op1, .inh, .inh, .inh, trivial⟩

theorem rowSound_1 : RowSound 0x10 opcodeRow1 :=
  ⟨.op1, .op1, .op1, .op2, .inh, .opAbs, .op1, .op1,
    .opAbs, .op1, .inh, .opAbs, .opAbs, .op1, .op1, .opAbs, trivial⟩

theorem rowSound_2 : RowSound 0x20 opcodeRow2 :=
  ⟨.inh, .op1, .op1, .op2, .op1, .op1, .op1, .opAbs,
    .inh, .op1, .inh, .opABit, .op1, .inh, .inh, .op1, trivial⟩

theorem rowSound_3 : RowSound 0x30 opcodeRow3 :=
  ⟨.op1, .op1, .op1, .op2, .inh, .opAbs, .op1, .op1,
    .opAbs, .op1, .inh, .opAbs, .opAbs, .op1, .op1, .op1, trivial⟩

theorem rowSound_4 : RowSound 0x40 opcodeRow4 :=
  ⟨.inh, .op1, .op1, .op2, .op1, .op1, .op1, .opAbs,
    .inh, .op1, .inh, .opMBitPlain, .op1, .inh, .inh, .op1, trivial⟩

theorem rowSound_5 : RowSound 0x50 opcodeRow5 :=
  ⟨.op1, .op1, .op1, .op2, .inh, .opAbs, .op1, .op1,
    .opAbs, .op1, .inh, .inh, .opAbs, .op1, .op1, .op1, trivial⟩

theorem rowSound_6 : RowSound 0x60 opcodeRow6 :=
  ⟨.inh, .op1, .op1, .op2, .op1, .op1, .op1, .opAbs,
    .inh, .op1, .inh, .opMBit, .op1, .inh, .inh, .inh, trivial⟩

theorem rowSound_7 : RowSound 0x70 opcodeRow7 :=
  ⟨.op1, .op1, .op1, .op2, .inh, .opAbs, .op1, .op1,
    .opAbs, .op1, .inh, .op1, .opAbs, .op1, .op1, .inh, trivial⟩

theorem rowSound_8 : RowSound 0x80 opcodeRow8 :=
  ⟨.inh, .op1, .op1, .op2, .op1, .op1, .op1, .opAbs,
    .inh, .op1, .inh, .opMBit, .op1, .op2, .inh, .inh, trivial⟩

theorem rowSound_9 : RowSound 0x90 opcodeRow9 :=
  ⟨.op1, .op1, .op1, .op2, .inh, .opAbs, .op1, .op1,
    .opAbs, .op1, .inh, .inh, .opAbs, .op1, .inh, .inh, trivial⟩

theorem rowSound_A : RowSound 0xA0 opcodeRowA :=
  ⟨.inh, .op1, .op1, .op2, .op1, .op1, .op1, .opAbs,
    .inh, .op1, .inh, .opMBit, .op2, .op1, .inh, .inh, trivial⟩

theorem rowSound_B : RowSound 0xB0 opcodeRowB :=
  ⟨.op1, .op1, .op1, .op2, .inh, .opAbs, .op1, .op1,
    .opAbs, .op1, .inh, .inh, .op1, .op1, .inh, .inh, trivial⟩

theorem rowSound_C : RowSound 0xC0 opcodeRowC :=
  ⟨.inh, .op1, .op1, .op2, .op1, .op1, .op1, .opAbs,
    .inh, .op1, .inh, .opMBit, .op1, .op1, .inh, .inh, trivial⟩

theorem rowSound_D : RowSound 0xD0 opcodeRowD :=
  ⟨.op1, .op1, .op1, .op2, .inh, .opAbs, .op1, .op1,
    .opAbs, .op1, .inh, .inh, .opAbs, .op1, .inh, .inh, trivial⟩

theorem rowSound_E : RowSound 0xE0 opcodeRowE :=
  ⟨.inh, .op1, .op1, .op2, .op2, .op1, .op1, .opAbs,
    .inh, .op1, .inh, .opMBitPlain, .op1, .op1, .inh, .inh, trivial⟩

theorem rowSound_F : RowSound 0xF0 opcodeRowF :=
  ⟨.op1, .op1, .op1, .op2, .inh, .opAbs, .op1, .op1,
    .opAbs, .op1, .inh, .inh, .opAbs, .op2, .inh, .inh, trivial⟩


theorem formSound_formOf (op : Byte) : FormSound op (formOf op) := by
  have hlt : op.toNat / 16 < 16 := by have := op.isLt; omega
  have hop : op = BitVec.ofNat 8 (16 * (op.toNat / 16)) + BitVec.ofNat 8 (op.toNat % 16) := by
    rw [← BitVec.ofNat_add, Nat.div_add_mod, BitVec.ofNat_toNat, BitVec.setWidth_eq]
  have hrow : ∀ r, r < 16 → RowSound (BitVec.ofNat 8 (16 * r)) (opcodeMap.getD r [])
    | 0, _ => rowSound_0 | 1, _ => rowSound_1 | 2, _ => rowSound_2 | 3, _ => rowSound_3
    | 4, _ => rowSound_4 | 5, _ => rowSound_5 | 6, _ => rowSound_6 | 7, _ => rowSound_7
    | 8, _ => rowSound_8 | 9, _ => rowSound_9 | 10, _ => rowSound_A | 11, _ => rowSound_B
    | 12, _ => rowSound_C | 13, _ => rowSound_D | 14, _ => rowSound_E | 15, _ => rowSound_F
    | r + 16, h => absurd h (by omega)
  have := (hrow _ hlt).getD (op.toNat % 16)
  rwa [← hop] at this

/-! ### Decoding an encoding -/

theorem decode_of_inh {op : Byte} {i : Instr} (h : formOf op = inh i) (rest : List Byte) :
    decode (op :: rest) = .ok (i, rest) := by
  simp only [decode, h, inh]

theorem decode_of_op1 {op : Byte} {f : Byte → Instr} (h : formOf op = op1 f) (v : Byte) (rest : List Byte) :
    decode (op :: v :: rest) = .ok (f v, rest) := by
  simp only [decode, h, op1]

theorem decode_of_op2 {op : Byte} {f : Byte → Byte → Instr} (h : formOf op = op2 f) (v w : Byte) (rest : List Byte) :
    decode (op :: v :: w :: rest) = .ok (f v w, rest) := by
  simp only [decode, h, op2]

theorem decode_of_opAbs {op : Byte} {f : Word → Instr} (h : formOf op = opAbs f) (addr : Word) (rest : List Byte) :
    decode (encAbs op addr ++ rest) = .ok (f addr, rest) := by
  simp only [decode, encAbs, h, opAbs, List.cons_append, List.nil_append, mkWord_hiByte_loByte]

theorem decode_of_opABit {op : Byte} {f : BitNo → Instr} (h : formOf op = opABit f) (b : BitNo) (rest : List Byte) :
    decode (encABit op b ++ rest) = .ok (f b, rest) := by
  simp only [decode, encABit, h, opABit, List.cons_append, List.nil_append, abit_reserved, upperBitNo_abit, if_true]

/-- Byte 2 and the low byte of an `M.bit` address give it back, if it has 12 bits (R57, R91). -/
theorem mbitAddr_mbitOperand (b : BitNo) (rev : Bool) {addr : Word} (h : mbitAddrOk addr = true) :
    mbitAddr (mbitOperand b rev addr) (loByte addr) = addr := by
  have hnibble : ∀ (b : BitNo) (r : Bool) (q : BitVec 4),
      (((b ++ BitVec.ofBool r ++ q : Byte) &&& 0x0F) : Byte).toNat = q.toNat := by decide
  have hok : addr.toNat < 0x1000 := of_decide_eq_true h
  apply BitVec.eq_of_toNat_eq
  rw [mbitAddr, mkWord_toNat, mbitOperand, hnibble, loByte_toNat, BitVec.extractLsb'_toNat, Nat.shiftRight_eq_div_pow]
  omega

theorem decode_of_opMBit {op : Byte} {f g : Word → BitNo → Instr} (h : formOf op = opMBit f g) (rev : Bool)
    {addr : Word}
    (b : BitNo) (ha : mbitAddrOk addr = true) (rest : List Byte) :
    decode (encMBit op rev addr b ++ rest) = .ok (if rev then g addr b else f addr b, rest) := by
  simp only [decode, encMBit, h, opMBit, List.cons_append, List.nil_append, reversal_mbitOperand,
    upperBitNo_mbitOperand,
    mbitAddr_mbitOperand b rev ha]

theorem decode_of_opMBitPlain {op : Byte} {f : Word → BitNo → Instr} (h : formOf op = opMBitPlain f) {addr : Word}
    (b : BitNo) (ha : mbitAddrOk addr = true) (rest : List Byte) :
    decode (encMBit op false addr b ++ rest) = .ok (f addr b, rest) := by
  simp only [decode, encMBit, h, opMBitPlain, List.cons_append, List.nil_append, reversal_mbitOperand,
    upperBitNo_mbitOperand, mbitAddr_mbitOperand b false ha, Bool.false_eq_true, if_false]

/-- What holds of the eight bit numbers holds of all. -/
theorem BitNo.forall_of {p : BitNo → Prop} (h0 : p 0) (h1 : p 1) (h2 : p 2) (h3 : p 3) (h4 : p 4) (h5 : p 5) (h6 : p 6)
    (h7 : p 7) (b : BitNo) : p b := by
  have hb : b = 0 ∨ b = 1 ∨ b = 2 ∨ b = 3 ∨ b = 4 ∨ b = 5 ∨ b = 6 ∨ b = 7 := by revert b; decide
  rcases hb with rfl | rfl | rfl | rfl | rfl | rfl | rfl | rfl <;> assumption

theorem formOf_set1 : ∀ b, formOf (bitOp 0x01 b) = op1 (.set1 b) := BitNo.forall_of rfl rfl rfl rfl rfl rfl rfl rfl
theorem formOf_clr1 : ∀ b, formOf (bitOp 0x11 b) = op1 (.clr1 b) := BitNo.forall_of rfl rfl rfl rfl rfl rfl rfl rfl
theorem formOf_bbsA : ∀ b, formOf (bitOp 0x02 b) = op1 (.bbsA b) := BitNo.forall_of rfl rfl rfl rfl rfl rfl rfl rfl
theorem formOf_bbcA : ∀ b, formOf (bitOp 0x12 b) = op1 (.bbcA b) := BitNo.forall_of rfl rfl rfl rfl rfl rfl rfl rfl
theorem formOf_bbsDp : ∀ b, formOf (bitOp 0x03 b) = op2 (.bbsDp b) := BitNo.forall_of rfl rfl rfl rfl rfl rfl rfl rfl
theorem formOf_bbcDp : ∀ b, formOf (bitOp 0x13 b) = op2 (.bbcDp b) := BitNo.forall_of rfl rfl rfl rfl rfl rfl rfl rfl

theorem formOf_tcall (n : TableNo) : formOf (n ++ 0xA#4) = inh (.tcall n) := by
  have hn : n = 0 ∨ n = 1 ∨ n = 2 ∨ n = 3 ∨ n = 4 ∨ n = 5 ∨ n = 6 ∨ n = 7 ∨
      n = 8 ∨ n = 9 ∨ n = 10 ∨ n = 11 ∨ n = 12 ∨ n = 13 ∨ n = 14 ∨ n = 15 := by revert n; decide
  rcases hn with rfl | rfl | rfl | rfl | rfl | rfl | rfl | rfl | rfl | rfl | rfl | rfl | rfl | rfl | rfl | rfl <;> rfl

end Sys2Proof

/-! ### The statements -/

namespace Sys2Proof.Proofs

open Sys2Proof.Machine

/-- Settles O50, one format after another: the op code selects the form, and its fields are read back. -/
theorem decodeEncode : Obligations.DecodeEncode := by
  intro i rest hw
  cases i with
  | set1 b dp => exact decode_of_op1 (formOf_set1 b) dp rest
  | clr1 b dp => exact decode_of_op1 (formOf_clr1 b) dp rest
  | bbsA b rel => exact decode_of_op1 (formOf_bbsA b) rel rest
  | bbcA b rel => exact decode_of_op1 (formOf_bbcA b) rel rest
  | bbsDp b dp rel => exact decode_of_op2 (formOf_bbsDp b) dp rel rest
  | bbcDp b dp rel => exact decode_of_op2 (formOf_bbcDp b) dp rel rest
  | tcall n => exact decode_of_inh (formOf_tcall n) rest
  | seta1 b | clra1 b => exact decode_of_opABit rfl b rest
  | not1 addr b | stc addr b => exact decode_of_opMBitPlain rfl b hw rest
  | or1 addr b | and1 addr b | eor1 addr b | ldc addr b => exact decode_of_opMBit rfl false b hw rest
  | or1b addr b | and1b addr b | eor1b addr b | ldcb addr b => exact decode_of_opMBit rfl true b hw rest
  | adcAbs addr | adcAbsY addr | sbcAbs addr | sbcAbsY addr | cmpAbs addr | cmpAbsY addr | orAbs addr | orAbsY addr
  | andAbs addr | andAbsY addr | eorAbs addr | eorAbsY addr | ldaAbs addr | ldaAbsY addr | staAbs addr | staAbsY addr
  | aslAbs addr | rolAbs addr | lsrAbs addr | rorAbs addr | incAbs addr | decAbs addr | ldyAbs addr | styAbs addr
  | ldxAbs addr | stxAbs addr | cmpxAbs addr | cmpyAbs addr | bitAbs addr | tset1 addr | tclr1 addr | jmpAbs addr
  | jmpIndAbs addr | callAbs addr => exact decode_of_opAbs rfl addr rest
  | _ => rfl

/-- Settles O51: the first byte selects a form, and every form of the opcode map is sound under its op code. -/
theorem encodeDecode : Obligations.EncodeDecode := by
  intro bs i rest h
  cases bs with
  | nil => cases h
  | cons op bs =>
    have hsound := formSound_formOf op
    simp only [decode] at h
    split at h
    · cases h
    · next j hform =>
      rw [hform] at hsound
      cases h
      exact ⟨hsound.1, by rw [hsound.2]; rfl⟩
    · next k hform =>
      rw [hform] at hsound
      split at h
      · split at h
        · next hk =>
          cases h
          obtain ⟨hwf, henc⟩ := hsound _ _ hk
          exact ⟨hwf, by rw [henc]; rfl⟩
        · cases h
      · cases h
    · next k hform =>
      rw [hform] at hsound
      split at h
      · split at h
        · next hk =>
          cases h
          obtain ⟨hwf, henc⟩ := hsound _ _ _ hk
          exact ⟨hwf, by rw [henc]; rfl⟩
        · cases h
      · cases h

end Sys2Proof.Proofs
end

section
/-! SUPPORT. Updates of registers and flags alone: what each leaves as it was, PC and memory included. -/

namespace Sys2Proof.Machine

/-- `t` is `s` but for these registers and these flags; only `draws` is not spoken of. -/
structure SameBut (s t : State) (regs : List Reg) (flags : List Flag) : Prop where
  reg : ∀ r, r ∉ regs → t.reg r = s.reg r
  flag : ∀ f, f ∉ flags → t.flag f = s.flag f
  pc : t.pc = s.pc
  mem : t.mem = s.mem
  stopped : t.stopped = s.stopped
  memMap : t.memMap = s.memMap
  irqTable : t.irqTable = s.irqTable
  resetRequest : t.resetRequest = s.resetRequest
  iShadow : t.iShadow = s.iShadow

@[simp] theorem State.reg_drawFlag (s : State) (f : Flag) (r : Reg) : (s.drawFlag f).reg r = s.reg r := by
  cases r <;> rfl

@[simp] theorem State.reg_setNZ16 (s : State) (w : Word) (r : Reg) : (s.setNZ16 w).reg r = s.reg r := by
  cases r <;> rfl

@[simp] theorem State.setReg_iShadow (s : State) (r : Reg) (v : Byte) : (s.setReg r v).iShadow = s.iShadow := by
  cases r <;> rfl

namespace SameBut

variable {s t u : State} {regs : List Reg} {flags : List Flag}

theorem refl (s : State) (regs : List Reg) (flags : List Flag) : SameBut s s regs flags :=
  ⟨fun _ _ => rfl, fun _ _ => rfl, rfl, rfl, rfl, rfl, rfl, rfl, rfl⟩

theorem trans (h : SameBut s t regs flags) (g : SameBut t u regs flags) : SameBut s u regs flags where
  reg r hr := (g.reg r hr).trans (h.reg r hr)
  flag f hf := (g.flag f hf).trans (h.flag f hf)
  pc := g.pc.trans h.pc
  mem := g.mem.trans h.mem
  stopped := g.stopped.trans h.stopped
  memMap := g.memMap.trans h.memMap
  irqTable := g.irqTable.trans h.irqTable
  resetRequest := g.resetRequest.trans h.resetRequest
  iShadow := g.iShadow.trans h.iShadow

/-- One flag written, after such an update. -/
theorem setFlag (h : SameBut s t regs flags) {f : Flag} (hf : f ∈ flags) (v : Bool) :
    SameBut s (t.setFlag f v) regs flags :=
  h.trans
    { refl t regs flags with
      reg := fun r _ => t.reg_setFlag f v r
      flag := fun k hk => by
        have hne : f ≠ k := fun e => hk (e ▸ hf)
        rw [State.flag_setFlag, if_neg hne] }

/-- One register written, after such an update. -/
theorem setReg (h : SameBut s t regs flags) {r : Reg} (hr : r ∈ regs) (v : Byte) :
    SameBut s (t.setReg r v) regs flags :=
  h.trans
    { reg := fun k hk => by
        have hne : r ≠ k := fun e => hk (e ▸ hr)
        rw [State.reg_setReg, if_neg hne]
      flag := fun f _ => t.flag_setReg r v f
      pc := t.setReg_pc r v
      mem := t.setReg_mem r v
      stopped := t.setReg_stopped r v
      memMap := t.setReg_memMap r v
      irqTable := t.setReg_irqTable r v
      resetRequest := t.setReg_resetRequest r v
      iShadow := t.setReg_iShadow r v }

theorem setNZ8 (h : SameBut s t regs flags) (hn : Flag.n ∈ flags) (hz : Flag.z ∈ flags) (v : Byte) :
    SameBut s (t.setNZ8 v) regs flags :=
  (h.setFlag hn _).setFlag hz _

theorem setNZ16 (h : SameBut s t regs flags) (hn : Flag.n ∈ flags) (hz : Flag.z ∈ flags) (w : Word) :
    SameBut s (t.setNZ16 w) regs flags :=
  (h.setFlag hn _).setFlag hz _

theorem setYA (h : SameBut s t regs flags) (ha : Reg.a ∈ regs) (hy : Reg.y ∈ regs) (w : Word) :
    SameBut s (t.setYA w) regs flags :=
  (h.setReg hy (hiByte w)).setReg ha (loByte w)

/-- One more free value drawn: `draws` is not spoken of. -/
theorem drawn (h : SameBut s t regs flags) (n : Nat) : SameBut s { t with draws := n } regs flags :=
  h.trans { refl t regs flags with reg := fun r _ => by cases r <;> rfl }

theorem drawFlag (h : SameBut s t regs flags) {f : Flag} (hf : f ∈ flags) : SameBut s (t.drawFlag f) regs flags :=
  (h.drawn (t.draws + 1)).setFlag hf _

/-- The frame of the statements, from such an update. -/
theorem onlyChanges (h : SameBut s t regs flags) (cells : List Word) : OnlyChanges s t regs flags cells :=
  ⟨h.reg, h.flag, fun a _ => State.byteAt_congr h.mem a, h.stopped, h.memMap, h.irqTable, h.resetRequest⟩

end SameBut

/-- The frame of the statements goes through an update of registers and flags it allows. -/
theorem OnlyChanges.sameBut {s t u : State} {regs : List Reg} {flags : List Flag} {cells : List Word}
    (h : OnlyChanges s t regs flags cells) (g : SameBut t u regs flags) : OnlyChanges s u regs flags cells := by
  obtain ⟨hregs, hflags, hcells, hstop, hmap, hirq, hreset⟩ := h
  exact ⟨fun r hr => (g.reg r hr).trans (hregs r hr), fun f hf => (g.flag f hf).trans (hflags f hf),
    fun a ha => (State.byteAt_congr g.mem a).trans (hcells a ha), g.stopped.trans hstop, g.memMap.trans hmap,
    g.irqTable.trans hirq, g.resetRequest.trans hreset⟩

/-! ### The operations of the instruction rules -/

theorem sameBut_aluAdc (m : Byte) (s : State) : SameBut s (aluAdc m s) [.a] [.n, .v, .h, .z, .c] :=
  (((((SameBut.refl ..).setReg (r := .a) (by simp) _).setFlag (by simp) _).setFlag (by simp) _).setFlag
    (by simp) _).setNZ8 (by simp) (by simp) _

theorem sameBut_aluSbc (m : Byte) (s : State) : SameBut s (aluSbc m s) [.a] [.n, .v, .h, .z, .c] :=
  (((((SameBut.refl ..).setReg (r := .a) (by simp) _).setFlag (by simp) _).setFlag (by simp) _).setFlag
    (by simp) _).setNZ8 (by simp) (by simp) _

/-- A register takes a value, N and Z are set from it. -/
theorem sameBut_setReg_setNZ8 (s : State) (r : Reg) (v : Byte) : SameBut s ((s.setReg r v).setNZ8 v) [r] [.n, .z] :=
  ((SameBut.refl ..).setReg (by simp) v).setNZ8 (by simp) (by simp) v

theorem sameBut_loadA (v : Byte) (s : State) : SameBut s (loadA v s) [.a] [.n, .z] := sameBut_setReg_setNZ8 s .a v

theorem sameBut_loadX (v : Byte) (s : State) : SameBut s (loadX v s) [.x] [.n, .z] := sameBut_setReg_setNZ8 s .x v

theorem sameBut_loadY (v : Byte) (s : State) : SameBut s (loadY v s) [.y] [.n, .z] := sameBut_setReg_setNZ8 s .y v

theorem sameBut_setNZ8 (s : State) (v : Byte) : SameBut s (s.setNZ8 v) [] [.n, .z] :=
  (SameBut.refl ..).setNZ8 (by simp) (by simp) v

theorem sameBut_setNZ16 (s : State) (w : Word) : SameBut s (s.setNZ16 w) [] [.n, .z] :=
  (SameBut.refl ..).setNZ16 (by simp) (by simp) w

theorem sameBut_setFlag (s : State) (f : Flag) (v : Bool) : SameBut s (s.setFlag f v) [] [f] :=
  (SameBut.refl ..).setFlag (by simp) v

theorem sameBut_compare8 (s : State) (r m : Byte) : SameBut s (s.compare8 r m) [] [.n, .z, .c] :=
  ((SameBut.refl ..).setFlag (by simp) _).setNZ8 (by simp) (by simp) _

theorem sameBut_compare16 (s : State) (p w : Word) : SameBut s (s.compare16 p w) [] [.n, .z, .c] :=
  ((SameBut.refl ..).setFlag (by simp) _).setNZ16 (by simp) (by simp) _

/-- A register takes a value after C is written, N and Z are set from it: shifts, rotations and decimal adjustment of
A. -/
theorem sameBut_setFlag_loadA (s : State) (c : Bool) (v : Byte) :
    SameBut s (loadA v (s.setFlag .c c)) [.a] [.n, .z, .c] :=
  (((SameBut.refl ..).setFlag (by simp) _).setReg (r := .a) (by simp) _).setNZ8 (by simp) (by simp) _

theorem sameBut_setFlag_setNZ8 (s : State) (c : Bool) (v : Byte) :
    SameBut s ((s.setFlag .c c).setNZ8 v) [] [.n, .z, .c] :=
  ((SameBut.refl ..).setFlag (by simp) _).setNZ8 (by simp) (by simp) _

theorem sameBut_addYA (w : Word) (s : State) : SameBut s (addYA w s) [.a, .y] [.n, .v, .h, .z, .c] :=
  (((((SameBut.refl ..).setYA (by simp) (by simp) _).setFlag (by simp) _).setFlag (by simp) _).setFlag
    (by simp) _).setNZ16 (by simp) (by simp) _

theorem sameBut_subYA (w : Word) (s : State) : SameBut s (subYA w s) [.a, .y] [.n, .v, .h, .z, .c] :=
  (((((SameBut.refl ..).setYA (by simp) (by simp) _).setFlag (by simp) _).setFlag (by simp) _).setFlag
    (by simp) _).setNZ16 (by simp) (by simp) _

theorem sameBut_setYA_setNZ16 (s : State) (w : Word) : SameBut s ((s.setYA w).setNZ16 w) [.a, .y] [.n, .z] :=
  ((SameBut.refl ..).setYA (by simp) (by simp) w).setNZ16 (by simp) (by simp) w

theorem sameBut_testBits (m : Byte) (s : State) : SameBut s (testBits m s) [] [.n, .v, .z] :=
  (((SameBut.refl ..).setFlag (by simp) _).setFlag (by simp) _).setFlag (by simp) _

/-- DIV with Y < X as register and flag updates (R110). -/
theorem divideExact_eq (s : State) :
    divideExact s = (((((s.setReg .y (BitVec.ofNat 8 (s.ya.toNat % s.x.toNat))).setReg .a
      (BitVec.ofNat 8 (s.ya.toNat / s.x.toNat))).setFlag .v false).setNZ8
      (BitVec.ofNat 8 (s.ya.toNat / s.x.toNat))).drawFlag .h) := rfl

/-- DIV with Y >= X as register and flag updates: V = 1 and the drawn values (R110, D9). -/
theorem divideOverflow_eq (s : State) :
    divideOverflow s =
      ((((({ s.setFlag .v true with draws := s.draws + 2 }.setReg .y (Config.freeByte (s.draws + 1))).setReg .a
        (Config.freeByte s.draws)).drawFlag .n).drawFlag .z).drawFlag .h) := rfl

theorem sameBut_divideExact (s : State) : SameBut s (divideExact s) [.a, .y] [.n, .v, .h, .z] := by
  rw [divideExact_eq]
  exact (((((SameBut.refl ..).setReg (by simp) _).setReg (by simp) _).setFlag (by simp) _).setNZ8
    (by simp) (by simp) _).drawFlag (by simp)

theorem sameBut_divideOverflow (s : State) : SameBut s (divideOverflow s) [.a, .y] [.n, .v, .h, .z] := by
  rw [divideOverflow_eq]
  exact (((((((SameBut.refl ..).setFlag (by simp) _).drawn _).setReg (by simp) _).setReg
    (by simp) _).drawFlag (by simp)).drawFlag (by simp)).drawFlag (by simp)

theorem sameBut_div (s : State) :
    SameBut s (if s.y.toNat < s.x.toNat then divideExact s else divideOverflow s) [.a, .y] [.n, .v, .h, .z] := by
  split
  · exact sameBut_divideExact s
  · exact sameBut_divideOverflow s

theorem sameBut_mul (s : State) (w : Word) : SameBut s (((s.setYA w).drawFlag .n).drawFlag .z) [.a, .y] [.n, .z] :=
  (((SameBut.refl ..).setYA (by simp) (by simp) _).drawFlag (by simp)).drawFlag (by simp)

theorem sameBut_incA (s : State) (v : Byte) : SameBut s ((loadA v s).drawFlag .c) [.a] [.n, .z, .c] :=
  (((SameBut.refl ..).setReg (r := .a) (by simp) _).setNZ8 (by simp) (by simp) _).drawFlag (by simp)

theorem sameBut_txsp (s : State) (v : Byte) :
    SameBut s ((({ s with sp := v }).drawFlag .n).drawFlag .z) [.sp] [.n, .z] :=
  (((SameBut.refl ..).setReg (r := .sp) (by simp) _).drawFlag (by simp)).drawFlag (by simp)

end Sys2Proof.Machine
end

section
/-! PROOFS. Every instruction makes the accesses that its rule lists, in their order, and no others (R33, R37, R230,
R245). -/

namespace Sys2Proof.Machine

variable {s : State} {l : List Access} {o : Outcome}

/-- The accesses, spelled in another way. -/
theorem Performs.of_eq {l' : List Access} (h : Performs s l o) (e : l' = l := by rfl) : Performs s l' o := e ▸ h

/-- A read-modify-write reads and writes one cell (R37). -/
theorem Performs.modifyAt {ea : Word} {f : Byte → Byte} {g : Byte → State → State}
    (hm : ∀ v t, (g v t).memMap = t.memMap := by exact fun _ _ => rfl)
    (hb : ∀ v t, (g v t).mem = t.mem := by exact fun _ _ => rfl) :
    Performs s (readsOf [ea] ++ writesOf [ea]) (modifyAt ea f g s) :=
  .withByte (.storing (.next (hm _ _) (hb _ _)))

theorem Performs.modifyMode {m : Mode} {f : Byte → Byte} {g : Byte → State → State}
    (hm : ∀ v t, (g v t).memMap = t.memMap := by exact fun _ _ => rfl)
    (hb : ∀ v t, (g v t).mem = t.mem := by exact fun _ _ => rfl) :
    Performs s (readsOf (m.pointerCells s) ++ m.modifying s) (modifyMode m f g s) :=
  .withEA (.modifyAt hm hb)

theorem Performs.shiftMem (op : ShiftOp) (m : Mode) :
    Performs s (readsOf (m.pointerCells s) ++ m.modifying s) (shiftMem op m s) := .modifyMode

theorem Performs.incMem (m : Mode) : Performs s (readsOf (m.pointerCells s) ++ m.modifying s) (incMem m s) :=
  .modifyMode

theorem Performs.decMem (m : Mode) : Performs s (readsOf (m.pointerCells s) ++ m.modifying s) (decMem m s) :=
  .modifyMode

theorem Performs.exchangeA (m : Mode) : Performs s (readsOf (m.pointerCells s) ++ m.modifying s) (exchangeA m s) :=
  .modifyMode

theorem Performs.carryWithBit (addr : Word) (b : BitNo) (f : Bool → Bool → Bool) :
    Performs s (readsOf [addr]) (carryWithBit addr b f s) :=
  .withByte (.next rfl rfl)

@[simp] theorem decrementBranch_memMap (r rel : Byte) (t : State) : (decrementBranch r rel t).memMap = t.memMap := by
  simp [decrementBranch]

@[simp] theorem decrementBranch_mem (r rel : Byte) (t : State) : (decrementBranch r rel t).mem = t.mem := by
  simp [decrementBranch]

theorem Performs.compareBranch (x : Src) (rel : Byte) :
    Performs s (readsOf (x.cells s) ++ []) (compareBranch x rel s) :=
  .withSrc (.next (by simp) (by simp))

/-- A direct-page pair is written low byte first (R36, R37). -/
theorem Performs.storingDpWord {off : Byte} {w : Word} {k : State → Outcome}
    (h : ∀ t, Performs t l (k t)) : Performs s (writesOf (s.dpCells off) ++ l) (storingDpWord s off w k) := by
  show Performs s (.write (s.dpAddr off) :: .write (s.dpAddrHi off) :: l)
    (Machine.storing s (s.dpAddr off) (loByte w) fun s' => Machine.storing s' (s.dpAddrHi off) (hiByte w) k)
  exact .storing (.storing (h _))

/-- The pushes of a call, high byte first (R16, R201). -/
theorem Performs.pushPC {k : State → Outcome} (h : Performs s.pushedPC l (k s.pushedPC)) :
    Performs s (writesOf s.callCells ++ l) (pushPC s k) := by
  refine .push8 (.push8 ?_)
  show Performs { s.pushedPC with sp := s.sp - 1#8 - 1#8 } l (k { s.pushedPC with sp := s.sp - 1#8 - 1#8 })
  rw [byte_sub_two]
  exact h

theorem Performs.callTo (target : Word) : Performs s (writesOf s.callCells ++ []) (callTo target s) :=
  .pushPC (.next rfl rfl)

/-- The pops of a return, low byte first (R16, R216). -/
theorem Performs.popPC {k : State → Outcome} (h : ∀ t, Performs t l (k t)) :
    Performs s (readsOf [stackCell (s.sp + 1#8), stackCell (s.sp + 2#8)] ++ l) (popPC s k) := by
  rw [← byte_add_two]
  refine .pop8 (.pop8 (.after ?_ ?_ (h _))) <;> rfl

theorem byte_add_three (v : Byte) : v + 1#8 + 2#8 = v + 3#8 := by
  rw [BitVec.add_assoc]; rfl

/-- A return from a handler pops PSW, then PC (R217). -/
theorem Performs.returnFromHandler :
    Performs s (readsOf [stackCell (s.sp + 1#8), stackCell (s.sp + 2#8), stackCell (s.sp + 3#8)] ++ [])
      (returnFromHandler s) := by
  rw [← byte_add_two, ← byte_add_three]
  exact .pop8 (.popPC fun _ => .next rfl rfl)

/-- An entry pushes three bytes and reads its vector (R235, R239). -/
theorem Performs.enterHandler (vector : Word) :
    Performs s (s.entering vector) (enterHandler vector (fun t => t) s) := by
  have h : Performs s (writesOf s.callCells ++ .write (stackCell (s.sp - 2#8)) :: (readsOf (pairCells vector) ++ []))
      (Machine.enterHandler vector (fun t => t) s) := by
    refine .pushPC (.push8 (s := s.pushedPC) (.after ?_ ?_ (.withPair (.next ?_ ?_)))) <;> rfl
  exact h.of_eq (by simp [State.entering, State.entryCells, State.callCells, writesOf])

/-- Every instruction makes the accesses of its rule and no others: one law for each way of reaching memory. -/
theorem performs_exec (i : Instr) (s : State) : Performs s (s.accesses i) (exec i s) := by
  unfold exec
  cases i with
  -- an operand in memory is read
  | adcDp | adcDpX | adcAbs | adcIndX | adcAbsY | adcIndDpX | adcIndDpY
  | sbcDp | sbcDpX | sbcAbs | sbcIndX | sbcAbsY | sbcIndDpX | sbcIndDpY
  | cmpDp | cmpDpX | cmpAbs | cmpIndX | cmpAbsY | cmpIndDpX | cmpIndDpY
  | orDp | orDpX | orAbs | orIndX | orAbsY | orIndDpX | orIndDpY
  | andDp | andDpX | andAbs | andIndX | andAbsY | andIndDpX | andIndDpY
  | eorDp | eorDpX | eorAbs | eorIndX | eorAbsY | eorIndDpX | eorIndDpY
  | ldaDp | ldaDpX | ldaAbs | ldaIndX | ldaAbsY | ldaIndDpX | ldaIndDpY | ldaIndXInc
  | ldxDp | ldxDpY | ldxAbs | ldyDp | ldyDpX | ldyAbs | cmpxDp | cmpxAbs | cmpyDp | cmpyAbs
  | bitDp | bitAbs | tst => exact .of_eq (.withSrc (.next rfl rfl))
  | bbsDp | bbcDp => exact .of_eq (.withSrc (.next (State.branchIf_memMap ..) (State.branchIf_mem ..)))
  | cbneDp | cbneDpX => exact .of_eq (.compareBranch ..)
  | and1 | and1b | or1 | or1b | eor1 | eor1b | ldc | ldcb => exact .carryWithBit ..
  -- a cell is written
  | staDp | staDpX | staAbs | staIndX | staAbsY | staIndDpX | staIndDpY | staIndXInc | ldm
  | stxDp | stxDpY | stxAbs | styDp | styDpX | styAbs => exact .of_eq (.storeMode (.next rfl rfl))
  -- a cell is read and written
  | aslDp | aslAbs | aslDpX | lsrDp | lsrAbs | lsrDpX | rolDp | rolAbs | rolDpX | rorDp | rorAbs | rorDpX =>
    exact .of_eq (.shiftMem ..)
  | incDp | incAbs | incDpX => exact .of_eq (.incMem _)
  | decDp | decAbs | decDpX => exact .of_eq (.decMem _)
  | xmaDp | xmaDpX | xmaIndX => exact .of_eq (.exchangeA _)
  | com | tset1 | tclr1 | set1 | clr1 => exact .of_eq .modifyMode
  | dbneDp =>
    exact .of_eq (.modifyMode (hm := fun _ => decrementBranch_memMap _ _) (hb := fun _ => decrementBranch_mem _ _))
  | not1 | stc => exact .of_eq .modifyAt
  -- a pair is read, written or both
  | addw | subw | cmpw | ldya | jmpIndDp => exact .of_eq (.withDpWord (.next rfl rfl))
  | jmpIndAbs => exact .of_eq (.withPair (.next rfl rfl))
  | stya => exact .of_eq (.storingDpWord fun _ => .next rfl rfl)
  | incw | decw => exact .of_eq (.withDpWord (.storingDpWord fun _ => .next rfl rfl))
  -- the stack is used
  | pushA | pushX | pushY | pushPsw => exact .of_eq (.push8 (.next rfl rfl))
  | popA | popX | popY | popPsw => exact .of_eq (.pop8 (.next rfl rfl))
  | callAbs | pcall => exact .of_eq (.callTo _)
  | callIndDp => exact .of_eq (.withDpWord (.callTo _))
  | tcall => exact .of_eq (.pushPC (.withPair (.next rfl rfl)))
  | brk => exact .after (t := s.setFlag .b true) rfl rfl (.enterHandler brkVector)
  | ret => exact .of_eq (.popPC fun _ => .next rfl rfl)
  | reti => exact .of_eq .returnFromHandler
  -- nothing is accessed
  | bpl | bvc | bcc | bne | bmi | bvs | bcs | beq | bbsA | bbcA =>
    exact .next (State.branchIf_memMap ..) (State.branchIf_mem ..)
  | dbneY => exact .next (decrementBranch_memMap ..) (decrementBranch_mem ..)
  | div => exact .next (sameBut_div s).memMap (sameBut_div s).mem
  | _ => exact .next rfl rfl

end Sys2Proof.Machine
end

section
/-! PROOFS. What each instruction may write: registers, flags, PC, memory, STOPPED and the boundary mark (R10 to R18,
R230, R245). -/

namespace Sys2Proof.Machine

/-- `t` differs from `s` at most in what the instruction may write. -/
structure Writes (i : Instr) (s t : State) : Prop where
  flag : ∀ f, f ∉ flagsWritten i → t.flag f = s.flag f
  reg : ∀ r, r ∉ regsWritten i → t.reg r = s.reg r
  pc : isControlTransfer i = false → t.pc = s.pc
  mem : writesMemory i = false → t.mem = s.mem
  wf : s.mem.wf = true → t.mem.wf = true
  stopped : i ≠ .stop → t.stopped = s.stopped
  memMap : t.memMap = s.memMap
  irqTable : t.irqTable = s.irqTable
  resetRequest : t.resetRequest = s.resetRequest
  iShadow : i ∉ [.ei, .popPsw, .reti] → t.iShadow = s.iShadow

namespace Writes

variable {i : Instr} {s t u : State}

theorem refl (i : Instr) (s : State) : Writes i s s :=
  ⟨fun _ _ => rfl, fun _ _ => rfl, fun _ => rfl, fun _ => rfl, id, fun _ => rfl, rfl, rfl, rfl, fun _ => rfl⟩

theorem trans (h : Writes i s t) (g : Writes i t u) : Writes i s u where
  flag f hf := (g.flag f hf).trans (h.flag f hf)
  reg r hr := (g.reg r hr).trans (h.reg r hr)
  pc hi := (g.pc hi).trans (h.pc hi)
  mem hi := (g.mem hi).trans (h.mem hi)
  wf := g.wf ∘ h.wf
  stopped hi := (g.stopped hi).trans (h.stopped hi)
  memMap := g.memMap.trans h.memMap
  irqTable := g.irqTable.trans h.irqTable
  resetRequest := g.resetRequest.trans h.resetRequest
  iShadow hi := (g.iShadow hi).trans (h.iShadow hi)

theorem tracks (i : Instr) : Tracks (Writes i) := ⟨trans, memMap⟩

/-- An update of the registers and flags that the instruction writes. -/
theorem of_sameBut (h : SameBut s t (regsWritten i) (flagsWritten i)) : Writes i s t where
  flag := h.flag
  reg := h.reg
  pc _ := h.pc
  mem _ := h.mem
  wf := fun hw => by rwa [h.mem]
  stopped _ := h.stopped
  memMap := h.memMap
  irqTable := h.irqTable
  resetRequest := h.resetRequest
  iShadow _ := h.iShadow

theorem setSP (hi : Reg.sp ∈ regsWritten i) (s : State) (v : Byte) : Writes i s { s with sp := v } :=
  of_sameBut ((SameBut.refl s _ _).setReg hi v)

theorem storeByte (hi : writesMemory i = true) (s : State) (a : Word) (v : Byte) : Writes i s (s.storeByte a v) :=
  { refl i s with
    reg := fun r _ => s.reg_storeByte a v r
    mem := fun h => absurd hi (h ▸ Bool.false_ne_true)
    wf := fun h => wf_storeByte h a v }

theorem setPC (hi : isControlTransfer i = true) (s : State) (v : Word) : Writes i s { s with pc := v } :=
  { refl i s with
    reg := fun r _ => by cases r <;> rfl
    pc := fun h => absurd hi (h ▸ Bool.false_ne_true) }

theorem branchIf (hi : isControlTransfer i = true) (s : State) (c : Bool) (rel : Byte) :
    Writes i s (s.branchIf c rel) := by
  cases c with
  | true => exact setPC hi s _
  | false => exact refl i s

/-- STOPPED is written, by STOP alone. -/
theorem stop (s : State) : Writes .stop s { s with stopped := true } :=
  { refl .stop s with
    reg := fun r _ => by cases r <;> rfl
    stopped := fun h => absurd rfl h }

/-- The boundary mark is written. -/
theorem mark (hi : i ∈ [Instr.ei, .popPsw, .reti]) (s : State) (v : Bool) : Writes i s { s with iShadow := v } :=
  { refl i s with
    reg := fun r _ => by cases r <;> rfl
    iShadow := fun h => absurd hi h }

/-- All eight flags are written. -/
theorem setPsw (hi : flagsWritten i = allFlags) (s : State) (p : Byte) : Writes i s { s with psw := p } :=
  { refl i s with
    reg := fun r _ => by cases r <;> rfl
    flag := fun f hf => absurd (by rw [hi]; cases f <;> decide) hf }

end Writes

/-! ### The operations of the instruction rules -/

namespace Writes

variable {i : Instr} {s : State}

/-- A store of a byte (R39). -/
theorem storeMode (hi : writesMemory i = true) {m : Mode} {v : Byte} {k : State → Outcome}
    (h : ∀ t, Within (Writes i) t (k t)) : Within (Writes i) s (storeMode m v s k) :=
  .storeMode (tracks i) (storeByte hi) h

/-- A read-modify-write that then writes registers and flags (R37). -/
theorem modifyMode (hi : writesMemory i = true) {m : Mode} {f : Byte → Byte} {g : Byte → State → State}
    (h : ∀ v t, SameBut t (g v t) (regsWritten i) (flagsWritten i)) : Within (Writes i) s (modifyMode m f g s) :=
  .modifyMode (tracks i) (storeByte hi) fun v t => of_sameBut (h v t)

theorem modifyAt (hi : writesMemory i = true) (ea : Word) (f : Byte → Byte) :
    Within (Writes i) s (modifyAt ea f (fun _ t => t) s) :=
  .modifyAt (tracks i) (storeByte hi) fun _ t => refl i t

theorem shiftMem (hi : writesMemory i = true) (hr : regsWritten i = []) (hf : flagsWritten i = [.n, .z, .c])
    (op : ShiftOp) (m : Mode) : Within (Writes i) s (shiftMem op m s) :=
  modifyMode hi fun _ t => by rw [hr, hf]; exact sameBut_setFlag_setNZ8 t _ _

theorem incMem (hi : writesMemory i = true) (hr : regsWritten i = []) (hf : flagsWritten i = [.n, .z]) (m : Mode) :
    Within (Writes i) s (incMem m s) :=
  modifyMode hi fun _ t => by rw [hr, hf]; exact sameBut_setNZ8 t _

theorem decMem (hi : writesMemory i = true) (hr : regsWritten i = []) (hf : flagsWritten i = [.n, .z]) (m : Mode) :
    Within (Writes i) s (decMem m s) :=
  modifyMode hi fun _ t => by rw [hr, hf]; exact sameBut_setNZ8 t _

theorem exchangeA (hi : writesMemory i = true) (hr : regsWritten i = [.a]) (hf : flagsWritten i = [.n, .z]) (m : Mode) :
    Within (Writes i) s (exchangeA m s) :=
  modifyMode hi fun v t => by rw [hr, hf]; exact sameBut_loadA v t

/-- A bit operation on C (R160, R161, R168 to R171, R173, R174). -/
theorem carryWithBit (hf : flagsWritten i = [.c]) (addr : Word) (b : BitNo) (f : Bool → Bool → Bool) :
    Within (Writes i) s (carryWithBit addr b f s) :=
  .withByte fun _ => of_sameBut ((SameBut.refl s _ _).setFlag (by simp [hf]) _)

/-- CBNE (R202). -/
theorem compareBranch (hi : isControlTransfer i = true) (hf : flagsWritten i = [.n, .z, .c]) (x : Src) (rel : Byte) :
    Within (Writes i) s (compareBranch x rel s) :=
  .withSrc fun _ => (branchIf hi s _ rel).trans (of_sameBut ((((SameBut.refl _ _ _).drawFlag (by simp [hf])).drawFlag
    (by simp [hf])).drawFlag (by simp [hf])))

/-- DBNE after the decrement (R203). -/
theorem decrementBranch (hi : isControlTransfer i = true) (hf : flagsWritten i = [.n, .z]) (r rel : Byte) (t : State) :
    Writes i t (decrementBranch r rel t) :=
  (branchIf hi t _ rel).trans (of_sameBut (((SameBut.refl _ _ _).drawFlag (by simp [hf])).drawFlag (by simp [hf])))

/-- A push (R16). -/
theorem push8 (hi : writesMemory i = true) (hr : Reg.sp ∈ regsWritten i) {v : Byte} {k : State → Outcome}
    (h : ∀ t, Within (Writes i) t (k t)) : Within (Writes i) s (push8 s v k) :=
  .push8 (tracks i) (storeByte hi) (setSP hr) h

/-- A pop (R16). -/
theorem pop8 (hr : Reg.sp ∈ regsWritten i) {k : Byte → State → Outcome} (h : ∀ v t, Within (Writes i) t (k v t)) :
    Within (Writes i) s (pop8 s k) :=
  .pop8 (tracks i) (setSP hr) h

/-- A call (R201, R205, R206). -/
theorem pushPC (hi : writesMemory i = true) (hr : Reg.sp ∈ regsWritten i) {k : State → Outcome}
    (h : ∀ t, Within (Writes i) t (k t)) : Within (Writes i) s (pushPC s k) :=
  .pushPC (tracks i) (storeByte hi) (setSP hr) h

theorem callTo (hi : writesMemory i = true) (hr : Reg.sp ∈ regsWritten i) (hc : isControlTransfer i = true)
    (target : Word) : Within (Writes i) s (callTo target s) :=
  pushPC hi hr fun t => setPC hc t target

theorem popPC (hr : Reg.sp ∈ regsWritten i) (hc : isControlTransfer i = true) {k : State → Outcome}
    (h : ∀ t, Within (Writes i) t (k t)) : Within (Writes i) s (popPC s k) :=
  .popPC (tracks i) (setSP hr) (setPC hc) h

/-- RETI writes every flag and the boundary mark after its pops (R217). -/
theorem returnFromHandler (s : State) : Within (Writes .reti) s (returnFromHandler s) :=
  pop8 (by decide) fun p _ => popPC (by decide) rfl fun t =>
    (setPsw rfl t p).trans (mark (by decide) _ (pswFlag p .i))

/-- BRK sets B, then enters its handler (R210). -/
theorem execBrk (s : State) : Within (Writes .brk) s (execBrk s) :=
  .after (tracks .brk) (of_sameBut ((SameBut.refl s _ _).setFlag (by decide) true))
    (.enterHandler (tracks .brk) (storeByte rfl) (setSP (by decide)) (setPC rfl)
      (fun t => of_sameBut ((SameBut.refl t _ _).setFlag (by decide) false)) fun t => refl .brk t)

/-- Every instruction writes what the tables allow it and nothing else, or stops at MEMMAP. -/
theorem of_exec (i : Instr) (s : State) : Within (Writes i) s (exec i s) := by
  unfold exec
  cases i with
  | adcImm | adcDp | adcDpX | adcAbs | adcIndX | adcAbsY | adcIndDpX | adcIndDpY =>
    exact .withSrc fun _ => of_sameBut (sameBut_aluAdc _ _)
  | sbcImm | sbcDp | sbcDpX | sbcAbs | sbcIndX | sbcAbsY | sbcIndDpX | sbcIndDpY =>
    exact .withSrc fun _ => of_sameBut (sameBut_aluSbc _ _)
  | cmpImm | cmpDp | cmpDpX | cmpAbs | cmpIndX | cmpAbsY | cmpIndDpX | cmpIndDpY | cmpxImm | cmpxDp | cmpxAbs | cmpyImm
  | cmpyDp | cmpyAbs => exact .withSrc fun _ => of_sameBut (sameBut_compare8 _ _ _)
  | orImm | orDp | orDpX | orAbs | orIndX | orAbsY | orIndDpX | orIndDpY
  | andImm | andDp | andDpX | andAbs | andIndX | andAbsY | andIndDpX | andIndDpY
  | eorImm | eorDp | eorDpX | eorAbs | eorIndX | eorAbsY | eorIndDpX | eorIndDpY
  | ldaImm | ldaDp | ldaDpX | ldaAbs | ldaIndX | ldaAbsY | ldaIndDpX | ldaIndDpY =>
    exact .withSrc fun _ => of_sameBut (sameBut_loadA _ _)
  | ldxImm | ldxDp | ldxDpY | ldxAbs => exact .withSrc fun _ => of_sameBut (sameBut_loadX _ _)
  | ldyImm | ldyDp | ldyDpX | ldyAbs => exact .withSrc fun _ => of_sameBut (sameBut_loadY _ _)
  | ldaIndXInc =>
    exact .withSrc fun m => of_sameBut (((((SameBut.refl s _ _).setReg (r := .a) (by decide) m).setNZ8 (by decide)
      (by decide) m).setReg (r := .x) (by decide) (s.x + 1#8)))
  | bitDp | bitAbs => exact .withSrc fun _ => of_sameBut (sameBut_testBits _ _)
  | tst => exact .withSrc fun _ => of_sameBut (sameBut_setNZ8 _ _)
  | and1 | and1b | or1 | or1b | eor1 | eor1b | ldc | ldcb => exact carryWithBit rfl ..
  -- branches and jumps
  | bbsDp | bbcDp => exact .withSrc fun _ => branchIf rfl ..
  | bpl | bvc | bcc | bne | bmi | bvs | bcs | beq | bbsA | bbcA => exact branchIf rfl ..
  | bra | jmpAbs => exact setPC rfl ..
  | jmpIndAbs => exact .withPair fun _ => setPC rfl ..
  | jmpIndDp => exact .withDpWord fun _ => setPC rfl ..
  | cbneDp | cbneDpX => exact compareBranch rfl rfl ..
  | dbneDp => exact .modifyMode (tracks _) (storeByte rfl) fun _ _ => decrementBranch rfl rfl ..
  | dbneY =>
    exact (of_sameBut ((SameBut.refl s _ _).setReg (r := .y) (List.mem_singleton_self _) (s.y - 1#8))).trans
      (decrementBranch rfl rfl ..)
  -- memory
  | staDp | staDpX | staAbs | staIndX | staAbsY | staIndDpX | staIndDpY | ldm
  | stxDp | stxDpY | stxAbs | styDp | styDpX | styAbs => exact storeMode rfl (refl _)
  | staIndXInc =>
    exact storeMode rfl fun t => of_sameBut ((SameBut.refl t _ _).setReg (r := .x) (by decide) (t.x + 1#8))
  | aslDp | aslAbs | aslDpX | lsrDp | lsrAbs | lsrDpX | rolDp | rolAbs | rolDpX | rorDp | rorAbs | rorDpX =>
    exact shiftMem rfl rfl rfl ..
  | incDp | incAbs | incDpX => exact incMem rfl rfl rfl _
  | decDp | decAbs | decDpX => exact decMem rfl rfl rfl _
  | xmaDp | xmaDpX | xmaIndX => exact exchangeA rfl rfl rfl _
  | com | tset1 | tclr1 => exact modifyMode rfl fun _ _ => sameBut_setNZ8 _ _
  | set1 | clr1 => exact modifyMode rfl fun _ _ => SameBut.refl _ _ _
  | not1 | stc => exact modifyAt rfl _ _
  | stya => exact .storingDpWord (tracks _) (storeByte rfl) (refl _)
  | incw | decw =>
    exact .withDpWord fun _ => .storingDpWord (tracks _) (storeByte rfl) fun _ => of_sameBut (sameBut_setNZ16 _ _)
  -- registers and flags
  | aslA | lsrA | rolA | rorA | daa | das => exact of_sameBut (sameBut_setFlag_loadA _ _ _)
  | incA => exact of_sameBut (sameBut_incA _ _)
  | decA | xcn | txa | tya => exact of_sameBut (sameBut_loadA _ _)
  | incX | decX | tax | tspx => exact of_sameBut (sameBut_loadX _ _)
  | incY | decY | tay => exact of_sameBut (sameBut_loadY _ _)
  | mul => exact of_sameBut (sameBut_mul _ _)
  | div => exact of_sameBut (sameBut_div _)
  | addw => exact .withDpWord fun _ => of_sameBut (sameBut_addYA _ _)
  | subw => exact .withDpWord fun _ => of_sameBut (sameBut_subYA _ _)
  | cmpw => exact .withDpWord fun _ => of_sameBut (sameBut_compare16 _ _ _)
  | ldya => exact .withDpWord fun _ => of_sameBut (sameBut_setYA_setNZ16 _ _)
  | txsp => exact of_sameBut (sameBut_txsp _ _)
  | xax => exact of_sameBut (((SameBut.refl s _ _).setReg (r := .a) (by decide) s.x).setReg (r := .x) (by decide) s.a)
  | xay => exact of_sameBut (((SameBut.refl s _ _).setReg (r := .a) (by decide) s.y).setReg (r := .y) (by decide) s.a)
  | xyx => exact of_sameBut (((SameBut.refl s _ _).setReg (r := .x) (by decide) s.y).setReg (r := .y) (by decide) s.x)
  | seta1 | clra1 => exact of_sameBut ((SameBut.refl s _ _).setReg (r := .a) (List.mem_singleton_self _) _)
  | clrc | setc | clrg | setg | di => exact of_sameBut (sameBut_setFlag _ _ _)
  | clrv =>
    exact of_sameBut (((SameBut.refl s _ _).setFlag (f := .v) (by decide) false).setFlag (f := .h) (by decide) false)
  | ei => exact (of_sameBut (sameBut_setFlag s .i true)).trans (mark (by decide) _ true)
  | nop => exact refl _ s
  | stop => exact stop s
  -- the stack
  | pushA | pushX | pushY | pushPsw => exact push8 rfl (by decide) (refl _)
  | popA => exact pop8 (by decide) fun v t => of_sameBut ((SameBut.refl t _ _).setReg (r := .a) (by decide) v)
  | popX => exact pop8 (by decide) fun v t => of_sameBut ((SameBut.refl t _ _).setReg (r := .x) (by decide) v)
  | popY => exact pop8 (by decide) fun v t => of_sameBut ((SameBut.refl t _ _).setReg (r := .y) (by decide) v)
  | popPsw => exact pop8 (by decide) fun v t => (setPsw rfl t v).trans (mark (by decide) _ (pswFlag v .i))
  | callAbs | pcall => exact callTo rfl (List.mem_singleton_self _) rfl _
  | callIndDp => exact .withDpWord fun _ => callTo rfl (List.mem_singleton_self _) rfl _
  | tcall => exact pushPC rfl (List.mem_singleton_self _) fun _ => .withPair fun _ => setPC rfl ..
  | brk => exact execBrk s
  | ret => exact popPC (by decide) rfl (refl _)
  | reti => exact returnFromHandler s

end Writes

end Sys2Proof.Machine
end

section
/-! PROOFS. The statements about all instructions: what stops them, what they write (R15, R33, R230, R245). -/

namespace Sys2Proof.Machine

theorem writes_of_exec {i : Instr} {s t : State} (h : exec i s = .next t) : Writes i s t := by
  have hw := Writes.of_exec i s
  rwa [h] at hw

/-- A next state after these accesses: only the cells written differ. -/
theorem Performs.byteAt {s t : State} {l : List Access} (h : Performs s l (.next t)) {a : Word} (ha : .write a ∉ l) :
    t.byteAt a = s.byteAt a := by
  unfold Performs at h
  split at h
  · cases h
  · obtain ⟨u, hu, -, hbytes⟩ := h
    cases hu
    exact hbytes a ha

/-- An instruction leaves every cell that it does not list as written. -/
theorem byteAt_of_exec {i : Instr} {s t : State} (h : exec i s = .next t) {a : Word} (ha : .write a ∉ s.accesses i) :
    t.byteAt a = s.byteAt a :=
  Performs.byteAt (h ▸ performs_exec i s) ha

/-- Where every cell may be written no access is forbidden (R33). -/
theorem AllWritable.firstForbidden {s : State} (h : AllWritable s) (l : List Access) : s.firstForbidden l = none := by
  refine List.findSome?_eq_none_iff.mpr fun x _ => ?_
  cases x with
  | read a => rcases h a with e | e <;> simp [State.forbids, e]
  | write a => rcases h a with e | e <;> simp [State.forbids, e]

end Sys2Proof.Machine

/-! ### The statements -/

namespace Sys2Proof.Proofs

open Sys2Proof.Machine

/-- Settles O54: whatever an instruction writes, it ends within MEMMAP's stops and is not refused. -/
theorem onlyMemMapStops : Obligations.OnlyMemMapStops := by
  intro i s
  have hw := Writes.of_exec i s
  constructor
  · intro f hf
    rwa [hf] at hw
  · intro r hr
    rwa [hr] at hw

/-- Settles O55: no access is forbidden, so the accesses of the instruction end in a next state. -/
theorem everyInstructionCompletes : Obligations.EveryInstructionCompletes := by
  intro i s h
  have hp := performs_exec i s
  rw [Performs, h.firstForbidden] at hp
  obtain ⟨t, ht, -⟩ := hp
  exact ⟨t, ht, trivial⟩

/-- Settles O59: the registers and flags from what the instruction writes, the cells from its accesses. -/
theorem writersOfState : Obligations.WritersOfState := by
  intro i s t h
  have hw := writes_of_exec h
  exact ⟨hw.flag, hw.reg, hw.pc, hw.mem, fun a ha => byteAt_of_exec h ha, hw.stopped, hw.memMap, hw.irqTable,
    hw.resetRequest, hw.iShadow⟩

end Sys2Proof.Proofs
end

section
/-! PROOFS. The fetch and the step: which instruction runs, and where a step stops (R13, R33, R50, R61, R62, R218,
R248). -/

namespace Sys2Proof.Machine

/-! ### An access decided by what MEMMAP forbids -/

theorem withByte_eq (s : State) (a : Word) (k : Byte → Outcome) :
    withByte s a k = match s.forbids (.read a) with
      | some b => .fault (.memMap b)
      | none => k (s.byteAt a) := by
  rcases withByte_cases s a k with ⟨hr | hr | hr, hk⟩ | ⟨hh, hk⟩
  · simp [hk, State.forbids, hr]
  · simp [hk, State.forbids, hr]
  · simp [hk, State.forbids, hr]
  · simp [hk, State.forbids, hh]

/-- A read and what follows it stop at the first forbidden access, if there is one. -/
theorem withByte_stops {s : State} {p a : Word} {l : List Access} {k : Byte → Outcome}
    (h : s.firstForbidden (.read p :: l) = some a)
    (hk : s.firstForbidden l = some a → k (s.byteAt p) = .fault (.memMap a)) : withByte s p k = .fault (.memMap a) := by
  rw [State.firstForbidden_cons] at h
  rw [withByte_eq]
  cases hp : s.forbids (.read p) with
  | some b =>
    rw [hp] at h
    cases h
    rfl
  | none =>
    rw [hp] at h
    exact hk h

/-- A fault at the first of these accesses that MEMMAP forbids, else some next state: what `Performs` says, without what
it says of memory. -/
def Answers (s : State) (l : List Access) (o : Outcome) : Prop :=
  match s.firstForbidden l with
  | some a => o = .fault (.memMap a)
  | none => NextWith o fun _ => True

section Answers

variable {s t : State} {l : List Access} {o : Outcome}

theorem Performs.answers (h : Performs s l o) : Answers s l o := by
  revert h
  unfold Performs Answers
  cases s.firstForbidden l with
  | some a => exact id
  | none => exact fun ⟨t, ht, _⟩ => ⟨t, ht, trivial⟩

theorem Answers.next (s t : State) : Answers s [] (.next t) := ⟨t, rfl, trivial⟩

/-- Go on from a state with the same MEMMAP. -/
theorem Answers.after (hm : t.memMap = s.memMap) (h : Answers t l o) : Answers s l o := by
  unfold Answers at *
  rwa [State.firstForbidden_congr hm] at h

theorem Answers.withByte {a : Word} {k : Byte → Outcome} (h : Answers s l (k (s.byteAt a))) :
    Answers s (.read a :: l) (withByte s a k) := by
  unfold Answers at *
  rw [State.firstForbidden_cons, withByte_eq]
  cases s.forbids (.read a) with
  | some b => rfl
  | none => exact h

theorem Answers.withPair {a : Word} {k : Word → Outcome} (h : Answers s l (k (s.wordAt a))) :
    Answers s (readsOf (pairCells a) ++ l) (withPair s a k) := by
  show Answers s (.read a :: .read (a + 1#16) :: l)
    (Machine.withByte s a fun lo => Machine.withByte s (a + 1#16) fun hi => k (mkWord hi lo))
  exact .withByte (.withByte h)

theorem Answers.storing {a : Word} {v : Byte} {k : State → Outcome}
    (h : Answers (s.storeByte a v) l (k (s.storeByte a v))) : Answers s (.write a :: l) (storing s a v k) := by
  have hs : Answers s l (k (s.storeByte a v)) := h.after rfl
  unfold Answers at *
  rw [State.firstForbidden_cons]
  rcases storing_cases s a v k with ⟨hw | hw, hk⟩ | ⟨hw | hw, hk⟩
  · simpa [hk, State.forbids, hw] using hs
  · simpa [hk, State.forbids, hw] using hs
  · simp [hk, State.forbids, hw]
  · simp [hk, State.forbids, hw]

theorem Answers.push8 {v : Byte} {k : State → Outcome}
    (h : Answers { s.storeByte (stackCell s.sp) v with sp := s.sp - 1#8 } l
      (k { s.storeByte (stackCell s.sp) v with sp := s.sp - 1#8 })) :
    Answers s (.write (stackCell s.sp) :: l) (push8 s v k) :=
  .storing (.after rfl h)

theorem Answers.pushPC {k : State → Outcome} (h : Answers s.pushedPC l (k s.pushedPC)) :
    Answers s (writesOf s.callCells ++ l) (pushPC s k) := by
  refine .push8 (.push8 ?_)
  show Answers { s.pushedPC with sp := s.sp - 1#8 - 1#8 } l (k { s.pushedPC with sp := s.sp - 1#8 - 1#8 })
  rw [byte_sub_two]
  exact h

/-- An entry answers at its accesses whatever acknowledges the interrupt, if that keeps MEMMAP (R235). -/
theorem Answers.enterHandler (vector : Word) {ack : State → State} (hm : ∀ t, (ack t).memMap = t.memMap) (s : State) :
    Answers s (s.entering vector) (enterHandler vector ack s) := by
  have h : Answers s (writesOf s.callCells ++ .write (stackCell (s.sp - 2#8)) :: (readsOf (pairCells vector) ++ []))
      (Machine.enterHandler vector ack s) := by
    refine .pushPC (.push8 (s := s.pushedPC) (.after ?_ (.withPair (.next _ _))))
    exact hm _
  simpa [State.entering, State.entryCells, State.callCells, writesOf] using h

end Answers

/-! ### The fetch -/

/-- The bytes of the instruction at PC, as many as its op code asks for (R50). -/
def State.fetchCells (s : State) : List Word :=
  match formOf (s.byteAt s.pc) with
  | some (.two _) => [s.pc, s.pc + 1#16]
  | some (.three _) => [s.pc, s.pc + 1#16, s.pc + 2#16]
  | some (.one _) | none => [s.pc]

/-- A fetch stops at the first byte of the instruction that lies in a hole. -/
theorem fetchInstr_forbidden {s : State} {a : Word} (h : s.firstForbidden (readsOf s.fetchCells) = some a)
    (k : Instr → Nat → Outcome) : fetchInstr s k = .fault (.memMap a) := by
  unfold State.fetchCells at h
  split at h
  · next hform =>
    exact withByte_stops h fun h => by
      rw [hform]
      exact withByte_stops h nofun
  · next hform =>
    exact withByte_stops h fun h => by
      rw [hform]
      exact withByte_stops h fun h => withByte_stops h nofun
  · exact withByte_stops h nofun
  · exact withByte_stops h nofun

theorem decode_of_one {op : Byte} {i : Instr} (h : formOf op = some (.one i)) (rest : List Byte) :
    decode (op :: rest) = .ok (i, rest) := by
  simp only [decode, h]

theorem decode_of_two {op v : Byte} {f : Byte → Option Instr} {i : Instr} (h : formOf op = some (.two f))
    (hi : f v = some i) (rest : List Byte) : decode (op :: v :: rest) = .ok (i, rest) := by
  simp only [decode, h, hi]

theorem decode_of_three {op v w : Byte} {f : Byte → Byte → Option Instr} {i : Instr} (h : formOf op = some (.three f))
    (hi : f v w = some i) (rest : List Byte) : decode (op :: v :: w :: rest) = .ok (i, rest) := by
  simp only [decode, h, hi]

/-- A fetch that answers a next state has read an instruction, and goes on with it and its length. -/
theorem fetchInstr_next {s t : State} {k : Instr → Nat → Outcome} (h : fetchInstr s k = .next t) :
    ∃ i rest, decode [s.byteAt s.pc, s.byteAt (s.pc + 1#16), s.byteAt (s.pc + 2#16)] = .ok (i, rest) ∧
      k i (3 - rest.length) = .next t := by
  obtain ⟨-, h⟩ := withByte_next h
  split at h
  · cases h
  · next i hform => exact ⟨i, _, decode_of_one hform _, h⟩
  · next f hform =>
    obtain ⟨-, h⟩ := withByte_next h
    split at h
    · next i hi => exact ⟨i, _, decode_of_two hform hi _, h⟩
    · cases h
  · next f hform =>
    obtain ⟨-, h⟩ := withByte_next h
    obtain ⟨-, h⟩ := withByte_next h
    split at h
    · next i hi => exact ⟨i, _, decode_of_three hform hi _, h⟩
    · cases h

/-- Where the bytes of the instruction can be read, the fetch goes on with it and its length (R13, R50). -/
theorem fetchInstr_decoded {s : State} {i : Instr} {rest : List Byte}
    (h : decode [s.byteAt s.pc, s.byteAt (s.pc + 1#16), s.byteAt (s.pc + 2#16)] = .ok (i, rest))
    (hr : ∀ n, n + rest.length < 3 → Readable s (s.pc + BitVec.ofNat 16 n)) (k : Instr → Nat → Outcome) :
    fetchInstr s k = k i (3 - rest.length) := by
  have hpc : s.pc + BitVec.ofNat 16 0 = s.pc := BitVec.add_zero s.pc
  unfold fetchInstr
  simp only [decode] at h
  split at h
  · cases h
  · next j hform =>
    cases h
    rw [withByte_readable (hpc ▸ hr 0 (by simp)), hform]
    rfl
  · next f hform =>
    split at h
    · next j hj =>
      cases h
      rw [withByte_readable (hpc ▸ hr 0 (by simp)), hform]
      show withByte s (s.pc + 1#16) _ = _
      rw [withByte_readable (hr 1 (by simp)), hj]
      rfl
    · cases h
  · next f hform =>
    split at h
    · next j hj =>
      cases h
      rw [withByte_readable (hpc ▸ hr 0 (by simp)), hform]
      show withByte s (s.pc + 1#16) _ = _
      rw [withByte_readable (hr 1 (by simp)), withByte_readable (hr 2 (by simp)), hj]
      rfl
    · cases h

/-- The fetch stops at an A.bit instruction with a reserved operand bit set (R62, D7). -/
theorem fetchInstr_abit_reserved {s : State} {f : BitNo → Instr} (hform : formOf (s.byteAt s.pc) = opABit f)
    (hr : CanRead s [s.pc, s.pc + 1#16]) (hv : s.byteAt (s.pc + 1#16) &&& 0x1F ≠ 0) (k : Instr → Nat → Outcome) :
    fetchInstr s k = .fault (.reservedOperandBits (s.byteAt s.pc) (s.byteAt (s.pc + 1#16))) := by
  simp only [CanRead_cons, CanRead_nil, and_true] at hr
  simp only [fetchInstr, withByte_readable hr.1, hform, opABit, withByte_readable hr.2, if_neg hv]

/-- The fetch stops at NOT1 or STC with the reversal bit set (R62, D6). -/
theorem fetchInstr_mbit_reserved {s : State} {f : Word → BitNo → Instr}
    (hform : formOf (s.byteAt s.pc) = opMBitPlain f) (hr : CanRead s [s.pc, s.pc + 1#16, s.pc + 2#16])
    (hv : (s.byteAt (s.pc + 2#16)).getLsbD 4 = true) (k : Instr → Nat → Outcome) :
    fetchInstr s k = .fault (.reservedOperandBits (s.byteAt s.pc) (s.byteAt (s.pc + 2#16))) := by
  simp only [CanRead_cons, CanRead_nil, and_true] at hr
  simp only [fetchInstr, withByte_readable hr.1, hform, opMBitPlain, withByte_readable hr.2.1, withByte_readable hr.2.2,
    if_pos hv]

/-- A byte with one of its low five bits set has not all of them zero. -/
theorem and_low_ne_zero {v : Byte} {k : Nat} (hk : k < 5) (hv : v.getLsbD k = true) : v &&& 0x1F ≠ 0 := by
  have hall : ∀ v : Byte, v &&& 0x1F = 0 → ∀ k, k < 5 → v.getLsbD k = false := by decide
  intro h
  rw [hall v h k hk] at hv
  cases hv

/-! ### The step -/

/-- In a running core with no reset asserted and no source requesting, a step runs an instruction. -/
theorem step_of_not_requesting {s : State} (hr : s.resetRequest = false) (hs : s.stopped = false)
    (hq : s.requestingSource = none) : step s = runInstr s := by
  simp [step, hr, hs, pollIrq, hq]

theorem step_of_reset {s : State} (hr : s.resetRequest = true) : step s = takeReset s := by
  simp [step, hr]

/-- The state after polling: at most one free value has been drawn. -/
theorem pollIrq_state (s : State) : ∃ n, (pollIrq s).2 = { s with draws := n } := by
  unfold pollIrq
  split
  · exact ⟨s.draws, rfl⟩
  · split
    · exact ⟨s.draws + 1, rfl⟩
    · exact ⟨s.draws, rfl⟩

/-- Everything a step can have done when it answered a next state (R248): a reset, nothing, an acceptance or an
instruction, the last two after at most one free value was drawn. -/
theorem step_next {s t : State} (h : step s = .next t) :
    takeReset s = .next t ∨ t = s ∨
      ∃ n, (∃ src, acceptIrq src { s with draws := n } = .next t) ∨ runInstr { s with draws := n } = .next t := by
  unfold step at h
  split at h
  · exact .inl h
  · split at h
    · cases h
      exact .inr (.inl rfl)
    · obtain ⟨n, hn⟩ := pollIrq_state s
      refine .inr (.inr ⟨n, ?_⟩)
      split at h
      · next src s' hp =>
        have hs' : s' = { s with draws := n } := by rw [← hn, hp]
        exact .inl ⟨src, hs' ▸ h⟩
      · next s' hp =>
        have hs' : s' = { s with draws := n } := by rw [← hn, hp]
        exact .inr (hs' ▸ h)

/-- An instruction that ran was decoded from the bytes at PC and executed with PC past it. -/
theorem runInstr_next {s t : State} (h : runInstr s = .next t) :
    ∃ i rest, decode [s.byteAt s.pc, s.byteAt (s.pc + 1#16), s.byteAt (s.pc + 2#16)] = .ok (i, rest) ∧
      exec i { s with pc := s.pc + BitVec.ofNat 16 (3 - rest.length), iShadow := false } = .next t :=
  fetchInstr_next h

end Sys2Proof.Machine

/-! ### The statements -/

namespace Sys2Proof.Proofs

open Sys2Proof.Machine

/-- Settles O47: the stopped state is answered before anything is polled or fetched. -/
theorem stoppedUntilReset : Obligations.StoppedUntilReset := by
  intro s hs hr
  exact ⟨s, by simp [step, hr, hs], rfl⟩

/-- Settles O48: the step is the fetch, and the fetch goes on with the instruction decoded. -/
theorem stepRunsDecoded : Obligations.StepRunsDecoded := by
  intro s i rest hr hs hq _ hdec hread
  rw [step_of_not_requesting hr hs hq]
  exact fetchInstr_decoded hdec hread _

/-- Settles O49: the op code selects no form, or the form's operand check fails. -/
theorem fetchStops : Obligations.FetchStops := by
  intro s hr hs hq
  rw [step_of_not_requesting hr hs hq]
  refine ⟨fun hread hop => ?_, fun hread hop hbit => ?_, fun hread hop hbit => ?_⟩
  · have hform : formOf (s.byteAt s.pc) = none := by rw [hop]; rfl
    rw [runInstr, fetchInstr, withByte_readable hread, hform, hop]
  · obtain ⟨k, hk, hv⟩ := hbit
    have hform : ∃ f, formOf (s.byteAt s.pc) = opABit f := by
      simp only [List.mem_cons, List.not_mem_nil, or_false] at hop
      rcases hop with h | h <;> rw [h]
      · exact ⟨.seta1, rfl⟩
      · exact ⟨.clra1, rfl⟩
    obtain ⟨f, hform⟩ := hform
    exact fetchInstr_abit_reserved hform hread (and_low_ne_zero hk hv) _
  · have hform : ∃ f, formOf (s.byteAt s.pc) = opMBitPlain f := by
      simp only [List.mem_cons, List.not_mem_nil, or_false] at hop
      rcases hop with h | h <;> rw [h]
      · exact ⟨.not1, rfl⟩
      · exact ⟨.stc, rfl⟩
    obtain ⟨f, hform⟩ := hform
    exact fetchInstr_mbit_reserved hform hread hbit _

/-- Settles O58: the accesses of an instruction, an entry or a reset decide it, and so do the bytes of a fetch. -/
theorem memMapAccess : Obligations.MemMapAccess := by
  intro s
  refine ⟨fun i => (performs_exec i s).answers, ?_, ?_, ?_⟩
  · intro hr hs hq cells a ha
    rw [step_of_not_requesting hr hs hq]
    exact fetchInstr_forbidden ha _
  · intro src
    exact (Answers.enterHandler src.vector (fun t => t.clearRequest_memMap src) { s with iShadow := false }).after rfl
  · intro hr
    rw [step_of_reset hr]
    exact Answers.withPair (.next _ _)

end Sys2Proof.Proofs
end

section
/-! PROOFS. What no step and no move of the environment changes: the parameters of the chip, and the invariant of the
machine (R30, R232, R233, R248). -/

namespace Sys2Proof.Machine

/-! ### The parameters -/

/-- MEMMAP and IRQ_TABLE alone are the parameters. -/
theorem State.parameters_congr {s t : State} (hm : t.memMap = s.memMap) (hi : t.irqTable = s.irqTable) :
    t.parameters = s.parameters := by
  simp [State.parameters, hm, hi]

@[simp] theorem DeviceBit.setHidden_place (d : DeviceBit) (v : Bool) : (d.setHidden v).place = d.place := by
  cases d <;> rfl

/-- Latching or withdrawing a request changes no parameter (R233). -/
@[simp] theorem State.parameters_setRequest (s : State) (src : IrqSource) (v : Bool) :
    (s.setRequest src v).parameters = s.parameters := by
  simp only [State.parameters, State.setRequest_memMap, State.irqTable_setRequest]
  split
  · rw [List.map_map]
    congr 2
    funext t
    by_cases h : t.id = src.id <;> simp [h, IrqSource.setRequest]
  · rfl

@[simp] theorem State.parameters_clearRequest (s : State) (src : IrqSource) :
    (s.clearRequest src).parameters = s.parameters :=
  s.parameters_setRequest src false

@[simp] theorem parameters_clearRequests (l : List IrqSource) (s : State) :
    (clearRequests s l).parameters = s.parameters := by
  induction l generalizing s with
  | nil => rfl
  | cons src rest ih => exact (ih _).trans (s.parameters_clearRequest src)

/-- What a reset leaves of the parameters: all of them (R250; log 29). -/
theorem takeReset_next {s t : State} (h : takeReset s = .next t) :
    CanRead s (pairCells resetVector) ∧
      t = { State.reset with
        pc := s.wordAt resetVector, mem := s.dropRequests.mem, memMap := s.memMap, irqTable := s.dropRequests.irqTable,
        draws := s.draws } := by
  obtain ⟨hr, h⟩ := withPair_next h
  cases h
  exact ⟨hr, rfl⟩

theorem parameters_of_takeReset {s t : State} (h : takeReset s = .next t) : t.parameters = s.parameters := by
  obtain ⟨-, rfl⟩ := takeReset_next h
  have hdrop : s.dropRequests.parameters = s.parameters := parameters_clearRequests _ s
  rw [← hdrop]
  exact State.parameters_congr s.dropRequests_memMap.symm rfl

theorem parameters_of_acceptIrq {src : IrqSource} {s t : State} (h : acceptIrq src s = .next t) :
    t.parameters = s.parameters := by
  obtain ⟨-, -, rfl⟩ := acceptIrq_next h
  calc _ = (({ s with iShadow := false } : State).entered.clearRequest src).parameters := State.parameters_congr rfl rfl
    _ = ({ s with iShadow := false } : State).entered.parameters := State.parameters_clearRequest _ src
    _ = s.parameters := State.parameters_congr (State.entered_memMap _) (State.entered_irqTable _)

theorem parameters_of_runInstr {s t : State} (h : runInstr s = .next t) : t.parameters = s.parameters := by
  obtain ⟨i, rest, -, h⟩ := runInstr_next h
  have hw := writes_of_exec h
  exact State.parameters_congr hw.memMap hw.irqTable

/-- No step changes a parameter (R248). -/
theorem parameters_of_step {s t : State} (h : step s = .next t) : t.parameters = s.parameters := by
  rcases step_next h with h | rfl | ⟨n, ⟨src, h⟩ | h⟩
  · exact parameters_of_takeReset h
  · rfl
  · exact (parameters_of_acceptIrq h).trans (State.parameters_congr rfl rfl)
  · exact (parameters_of_runInstr h).trans (State.parameters_congr rfl rfl)

/-! ### The configuration of the sources -/

/-- What is fixed of a source: its name, vector and priority, and where its enable and request lie (R232). -/
def IrqSource.fixed (src : IrqSource) : Nat × Word × Nat × Option (Word × BitNo) × Option (Word × BitNo) :=
  (src.id, src.vector, src.priority, src.enable.place, src.request.place)

/-- The parameters include what is fixed of each source. -/
theorem fixed_of_parameters {s t : State} (h : t.parameters = s.parameters) :
    t.irqTable.map IrqSource.fixed = s.irqTable.map IrqSource.fixed := by
  have hirq := congrArg (fun p => p.2.map fun e => (e.1, e.2.1, e.2.2.1, e.2.2.2.1.place, e.2.2.2.2)) h
  rw [State.parameters, State.parameters, List.map_map, List.map_map] at hirq
  exact hirq

/-- No move of the environment changes what is fixed of a source (R248). -/
theorem fixed_environment (s : State) (m : EnvMove) :
    (s.environment m).irqTable.map IrqSource.fixed = s.irqTable.map IrqSource.fixed := by
  cases m with
  | reset => rfl
  | request id =>
    simp only [State.environment, State.raiseRequest]
    split
    · exact fixed_of_parameters (s.parameters_setRequest _ true)
    · rfl
  | enable id on =>
    simp only [State.environment, State.changeEnable, List.map_map]
    congr 1
    funext t
    by_cases h : t.id = id <;> simp [h, IrqSource.fixed]
  | device a v =>
    simp only [State.environment, State.changeDevice]
    split <;> rfl

/-! ### The invariant -/

/-- Whether IRQ_TABLE is admissible depends on what is fixed of its sources (R232). -/
theorem irqTableOk_congr {l l' : List IrqSource} (h : l'.map IrqSource.fixed = l.map IrqSource.fixed) :
    irqTableOk l' = irqTableOk l := by
  have hid : l'.map IrqSource.id = l.map IrqSource.id := by
    simpa [Function.comp_def, IrqSource.fixed] using congrArg (List.map fun e => e.1) h
  have hpriority : l'.map IrqSource.priority = l.map IrqSource.priority := by
    simpa [Function.comp_def, IrqSource.fixed] using congrArg (List.map fun e => e.2.2.1) h
  have hplace : l'.filterMap (fun e => e.request.place) = l.filterMap fun e => e.request.place := by
    simpa [Function.comp_def, IrqSource.fixed, List.filterMap_map] using congrArg (List.filterMap fun e => e.2.2.2.2) h
  have hvector (p : Word → Bool) : l'.all (fun e => p e.vector) = l.all fun e => p e.vector := by
    simpa [Function.comp_def, IrqSource.fixed, List.all_map] using congrArg (List.all · fun e => p e.2.1) h
  simp only [irqTableOk, hid, hpriority, hplace]
  congr 1
  exact hvector fun w => decide (0xFFE0 ≤ w.toNat) && decide (w.toNat ≤ 0xFFFC) && decide (w.toNat % 2 = 0)

/-- Whether a place, if it is one, lies in a device register of MEMMAP. -/
def State.placedAt (s : State) : Option (Word × BitNo) → Bool
  | none => true
  | some (a, _) => decide (s.kindAt a = .device)

/-- Whether a bit of device state is placed depends on MEMMAP and where it lies. -/
theorem State.placed_eq {s t : State} (hm : t.memMap = s.memMap) (d : DeviceBit) : t.placed d = s.placedAt d.place := by
  cases d with
  | hidden v => rfl
  | register a k => simp [State.placed, State.placedAt, DeviceBit.place, State.kindAt_congr hm]

/-- Whether the sources lie in device registers depends on MEMMAP and what is fixed of them. -/
theorem allPlaced_congr {s t : State} (hm : t.memMap = s.memMap)
    (h : t.irqTable.map IrqSource.fixed = s.irqTable.map IrqSource.fixed) :
    (t.irqTable.all fun e => t.placed e.enable && t.placed e.request) =
      s.irqTable.all fun e => s.placed e.enable && s.placed e.request := by
  simp only [State.placed_eq hm, State.placed_eq (rfl : s.memMap = s.memMap)]
  simpa [Function.comp_def, IrqSource.fixed, List.all_map] using
    congrArg (List.all · fun e => s.placedAt e.2.2.2.1 && s.placedAt e.2.2.2.2) h

/-- The invariant goes over to a state of the same configuration with canonical memory. -/
theorem inv_of_fixed {s t : State} (hs : s.inv = true) (hw : s.mem.wf = true → t.mem.wf = true)
    (hm : t.memMap = s.memMap) (h : t.irqTable.map IrqSource.fixed = s.irqTable.map IrqSource.fixed) :
    t.inv = true := by
  simp only [State.inv, Bool.and_eq_true] at hs ⊢
  obtain ⟨⟨hwf, htable⟩, hplaced⟩ := hs
  exact ⟨⟨hw hwf, by rwa [irqTableOk_congr h]⟩, by rwa [allPlaced_congr hm h]⟩

/-! ### Memory stays in canonical form (R30) -/

theorem wf_clearRequests (l : List IrqSource) {s : State} (h : s.mem.wf = true) :
    (clearRequests s l).mem.wf = true := by
  induction l generalizing s with
  | nil => exact h
  | cons src rest ih => exact ih (wf_setRequest h src false)

theorem wf_entered {s : State} (h : s.mem.wf = true) : s.entered.mem.wf = true :=
  wf_memWrite (wf_memWrite (wf_memWrite h (BitVec.isLt _) _) (BitVec.isLt _) _) (BitVec.isLt _) _

theorem wf_of_acceptIrq {src : IrqSource} {s t : State} (h : acceptIrq src s = .next t) (hw : s.mem.wf = true) :
    t.mem.wf = true := by
  obtain ⟨-, -, rfl⟩ := acceptIrq_next h
  have hw' : ({ s with iShadow := false } : State).mem.wf = true := hw
  exact wf_setRequest (wf_entered hw') src false

/-- A step keeps memory in canonical form: every write it makes is one of `memWrite`. -/
theorem wf_of_step {s t : State} (h : step s = .next t) (hw : s.mem.wf = true) : t.mem.wf = true := by
  rcases step_next h with h | rfl | ⟨n, ⟨src, h⟩ | h⟩
  · obtain ⟨-, rfl⟩ := takeReset_next h
    exact wf_clearRequests _ hw
  · exact hw
  · exact wf_of_acceptIrq h hw
  · obtain ⟨i, rest, -, h⟩ := runInstr_next h
    exact (writes_of_exec h).wf hw

theorem wf_environment {s : State} (h : s.mem.wf = true) (m : EnvMove) : (s.environment m).mem.wf = true := by
  cases m with
  | reset => exact h
  | request id =>
    simp only [State.environment, State.raiseRequest]
    split
    · exact wf_setRequest h _ true
    · exact h
  | enable id on => exact h
  | device a v =>
    simp only [State.environment, State.changeDevice]
    split
    · exact wf_storeByte h a _
    · exact h
    · exact h
    · exact h

end Sys2Proof.Machine

/-! ### The statements -/

namespace Sys2Proof.Proofs

open Sys2Proof.Machine

/-- Settles O60: each kind of step keeps the parameters, each move of the environment what is fixed of a source. -/
theorem stepKeepsParameters : Obligations.StepKeepsParameters := by
  intro s
  exact ⟨fun t h => parameters_of_step h, fun m => ⟨s.environment_memMap m, fixed_environment s m⟩⟩

/-- Settles O52: the configuration is the same after a step or a move, so only the form of memory is left to keep. -/
theorem stepKeepsInvariant : Obligations.StepKeepsInvariant := by
  intro s hs
  constructor
  · intro t h
    have hp := parameters_of_step h
    exact inv_of_fixed hs (wf_of_step h) (congrArg Prod.fst hp) (fixed_of_parameters hp)
  · intro m
    exact inv_of_fixed hs (wf_environment · m) (s.environment_memMap m) (fixed_environment s m)

/-- Settles O53: memory and IRQ_TABLE are empty after reset. -/
theorem resetInvariant : Obligations.ResetInvariant := by
  rw [Obligations.ResetInvariant, State.inv, wf_reset]
  rfl

/-- Settles O46: the fields of `State.reset`, each at the value R250 gives it. -/
theorem resetStateValues : Obligations.ResetStateValues :=
  ⟨fun f => by cases f <;> rfl, rfl, rfl, rfl⟩

end Sys2Proof.Proofs
end

section
/-! PROOFS. Interrupts and reset: which source is accepted and what an acceptance does, what holds a request, and what a
reset leaves (R233 to R237, R250, R261). -/

namespace Sys2Proof.Machine

/-! ### The bits of device state -/

theorem bitOf_withBit (v : Byte) (b k : BitNo) (on : Bool) :
    bitOf (withBit v b on) k = if b = k then on else bitOf v k := by
  rw [bitOf, getLsbD_withBit v b on k.isLt]
  simp only [eq_comm (a := k.toNat), BitVec.toNat_inj]
  rfl

/-- Latching or withdrawing a request writes its bit of memory, if it has one, and no other (R233). -/
theorem bitOf_setRequest (s : State) (src : IrqSource) (v : Bool) (a : Word) (k : BitNo) :
    bitOf ((s.setRequest src v).byteAt a) k = if src.request = .register a k then v else bitOf (s.byteAt a) k := by
  rw [State.byteAt_setRequest]
  cases src.request with
  | hidden w => simp
  | register b j =>
    by_cases hab : b = a
    · subst hab
      have hbit : bitOf (withBit (s.byteAt b) j v) k = if j = k then v else bitOf (s.byteAt b) k := bitOf_withBit ..
      simpa [withBit] using hbit
    · simp [hab]

/-- Of IRQ_TABLE, latching or withdrawing a request writes the sources of that name, if the device holds the request. -/
theorem irqTable_setRequest_map (s : State) (src : IrqSource) (v : Bool) :
    (s.setRequest src v).irqTable =
      s.irqTable.map fun e => if e.id = src.id ∧ src.request.place = none then e.setRequest v else e := by
  rw [State.irqTable_setRequest]
  cases src.request with
  | hidden w => simp [DeviceBit.place]
  | register a k => simp [DeviceBit.place]

theorem IrqSource.setRequest_of_register {e : IrqSource} {a : Word} {k : BitNo} (h : e.request = .register a k)
    (v : Bool) : e.setRequest v = e := by
  obtain ⟨id, vector, priority, enable, request⟩ := e
  cases h
  rfl

/-! ### Which source is accepted (R234, R237) -/

/-- In an admissible table a source is known by its name (R232). -/
theorem eq_of_id_eq {l : List IrqSource} (h : irqTableOk l = true) {e f : IrqSource} (he : e ∈ l) (hf : f ∈ l)
    (hid : e.id = f.id) : e = f := by
  simp only [irqTableOk, Bool.and_eq_true, decide_eq_true_eq] at h
  obtain ⟨⟨⟨hnodup, -⟩, -⟩, -⟩ := h
  exact List.inj_on_of_nodup_map hnodup he hf hid

/-- In an admissible table a source is known by its priority (R232). -/
theorem eq_of_priority_eq {l : List IrqSource} (h : irqTableOk l = true) {e f : IrqSource} (he : e ∈ l) (hf : f ∈ l)
    (hp : e.priority = f.priority) : e = f := by
  simp only [irqTableOk, Bool.and_eq_true, decide_eq_true_eq] at h
  obtain ⟨⟨⟨-, hnodup⟩, -⟩, -⟩ := h
  exact List.inj_on_of_nodup_map hnodup he hf hp

/-- With I = 1 the requesting source is the eligible one of highest priority. -/
theorem requestingSource_eq {s : State} {src : IrqSource} (hok : irqTableOk s.irqTable = true) (hm : src ∈ s.irqTable)
    (hi : s.flag .i = true) (he : s.eligible src = true)
    (htop : ∀ e ∈ s.irqTable, s.eligible e = true → e.priority ≤ src.priority) : s.requestingSource = some src := by
  rw [State.requestingSource, if_pos hi]
  cases h : highestPriority s.eligible s.irqTable with
  | none =>
    have := highestPriority_none h src hm
    simp [he] at this
  | some u =>
    obtain ⟨hu, heu, hutop⟩ := highestPriority_some h
    rw [eq_of_priority_eq hok hu hm (Nat.le_antisymm (htop u hu heu) (hutop src hm he))]

/-- With I = 0 or no eligible source nothing is requesting (R234). -/
theorem requestingSource_none {s : State} (h : s.flag .i = false ∨ ∀ e ∈ s.irqTable, s.eligible e = false) :
    s.requestingSource = none := by
  unfold State.requestingSource
  split
  · next hi =>
    have hnone : ∀ e ∈ s.irqTable, s.eligible e = false := h.resolve_left (by simp [hi])
    cases hp : highestPriority s.eligible s.irqTable with
    | none => rfl
    | some u =>
      obtain ⟨hu, heu, -⟩ := highestPriority_some hp
      simp [hnone u hu] at heu
  · rfl

/-! ### Acceptance (R235) -/

/-- The bytes after the pushes of an entry, the first pushed at the stack pointer (R235). -/
theorem State.byteAt_entered_top (s : State) (a : Word) :
    s.entered.byteAt a = if a = stackCell s.sp then hiByte s.pc else if a = stackCell (s.sp - 1#8) then loByte s.pc
      else if a = stackCell (s.sp - 2#8) then s.psw else s.byteAt a := by
  have h01 : stackCell s.sp ≠ stackCell (s.sp - 1#8) := stackCell_ne (byte_ne_sub (by decide))
  have h02 : stackCell s.sp ≠ stackCell (s.sp - 2#8) := stackCell_ne (byte_ne_sub (by decide))
  have h12 : stackCell (s.sp - 1#8) ≠ stackCell (s.sp - 2#8) := stackCell_ne (byte_sub_ne (by decide))
  rw [State.byteAt_entered]
  by_cases h0 : a = stackCell s.sp
  · simp [h0, h01, h02]
  · by_cases h1 : a = stackCell (s.sp - 1#8)
    · simp [h1, h12, h01.symm]
    · simp [h0, h1]

/-- The state after accepting a source. -/
def State.accepted (s : State) (src : IrqSource) : State :=
  { ({ s with iShadow := false } : State).entered.clearRequest src with
    pc := (({ s with iShadow := false } : State).entered.clearRequest src).wordAt src.vector }

theorem acceptIrq_mapped {s : State} {src : IrqSource} (hw : CanWrite s s.entryCells)
    (hr : CanRead s (pairCells src.vector)) : acceptIrq src s = .next (s.accepted src) :=
  enterHandler_mapped (s := { s with iShadow := false }) (fun t => t.clearRequest_memMap src) hw hr

theorem State.bitOf_accepted (s : State) (src : IrqSource) (a : Word) (k : BitNo) :
    bitOf ((s.accepted src).byteAt a) k = if src.request = .register a k then false else bitOf (s.entered.byteAt a) k :=
  bitOf_setRequest ({ s with iShadow := false } : State).entered src false a k

theorem State.flag_accepted (s : State) (src : IrqSource) (f : Flag) :
    (s.accepted src).flag f = if f = .i then false else s.flag f := by
  calc (s.accepted src).flag f = (({ s with iShadow := false } : State).entered.clearRequest src).flag f := rfl
    _ = ({ s with iShadow := false } : State).entered.flag f := State.flag_setRequest _ src false f
    _ = _ := State.flag_entered _ f

/-- A request that the device itself holds is withdrawn from its own source alone (R232, R235). -/
theorem State.irqTable_accepted {s : State} {src : IrqSource} (hok : irqTableOk s.irqTable = true)
    (hm : src ∈ s.irqTable) :
    (s.accepted src).irqTable = s.irqTable.map fun e => if e = src then e.setRequest false else e := by
  have htable : (s.accepted src).irqTable =
      s.irqTable.map fun e => if e.id = src.id ∧ src.request.place = none then e.setRequest false else e := by
    rw [← State.entered_irqTable { s with iShadow := false }]
    exact irqTable_setRequest_map _ src false
  rw [htable]
  refine List.map_congr_left fun e he => ?_
  by_cases hid : e = src
  · subst hid
    cases hp : e.request with
    | hidden w => simp [DeviceBit.place]
    | register a k => simp [IrqSource.setRequest_of_register hp]
  · rw [if_neg fun h => hid (eq_of_id_eq hok he hm h.1), if_neg hid]

/-- After its acceptance a source requests no more (R235). -/
theorem State.requested_accepted {s : State} {src : IrqSource} (hok : irqTableOk s.irqTable = true)
    (hm : src ∈ s.irqTable) {e : IrqSource} (he : e ∈ (s.accepted src).irqTable) (hid : e.id = src.id) :
    (s.accepted src).requested e = false := by
  rw [State.irqTable_accepted hok hm] at he
  obtain ⟨e₀, he₀, rfl⟩ := List.mem_map.mp he
  have hsrc : e₀ = src := eq_of_id_eq hok he₀ hm (by rw [← hid]; split <;> rfl)
  rw [if_pos hsrc, hsrc]
  cases hp : src.request with
  | hidden w => simp [State.requested, State.deviceBit, IrqSource.setRequest, hp, DeviceBit.setHidden]
  | register a k =>
    rw [IrqSource.setRequest_of_register hp, State.requested, hp, State.deviceBit, State.bitOf_accepted, if_pos hp]

theorem State.reg_accepted (s : State) (src : IrqSource) {r : Reg} (h : r ≠ .sp) :
    (s.accepted src).reg r = s.reg r := by
  cases r with
  | sp => exact absurd rfl h
  | a => simp [State.reg, State.accepted]
  | x => simp [State.reg, State.accepted]
  | y => simp [State.reg, State.accepted]

/-! ### What holds a request (R233) -/

theorem mem_irqPending {s : State} {id : Nat} :
    id ∈ s.irqPending ↔ ∃ e ∈ s.irqTable, s.requested e = true ∧ e.id = id := by
  simp [State.irqPending, and_assoc]

/-- Nothing pending is lost where each source stays under its name and keeps its request. -/
theorem mem_irqPending_of_map {s t : State} {f : IrqSource → IrqSource} (ht : t.irqTable = s.irqTable.map f)
    (hid : ∀ e, (f e).id = e.id) (hreq : ∀ e ∈ s.irqTable, s.requested e = true → t.requested (f e) = true) {id : Nat}
    (h : id ∈ s.irqPending) : id ∈ t.irqPending := by
  obtain ⟨e, he, hr, rfl⟩ := mem_irqPending.mp h
  exact mem_irqPending.mpr ⟨f e, ht ▸ List.mem_map_of_mem he, hreq e he hr, hid e⟩

/-- The bits of a source in a register's request mask. -/
theorem bitOf_requestMask {l : List IrqSource} {e : IrqSource} (he : e ∈ l) {a : Word} {k : BitNo}
    (hr : e.request = .register a k) : bitOf (requestMask l a) k = true := by
  have hself : bitOf (bitMask k) k = true := by simp [bitOf, bitMask, k.isLt]
  induction l with
  | nil => cases he
  | cons src rest ih =>
    have hor : bitOf (requestMask (src :: rest) a) k =
        (bitOf (src.request.maskAt a) k || bitOf (requestMask rest a) k) := by
      simp [requestMask, bitOf]
    rw [hor]
    rcases List.mem_cons.mp he with rfl | he
    · simp [hr, DeviceBit.maskAt, hself]
    · simp [ih he]

/-- Latching a request withdraws none (R233). -/
theorem requested_setRequest_true {s : State} (src : IrqSource) {e : IrqSource} (h : s.requested e = true) :
    (s.setRequest src true).requested e = true := by
  unfold State.requested State.deviceBit at h ⊢
  split
  · next v hv => simpa [hv] using h
  · next a k hk =>
    rw [hk] at h
    rw [bitOf_setRequest]
    split
    · rfl
    · exact h

theorem requested_setRequest_self {s : State} {e : IrqSource} (h : s.requested e = true) :
    s.requested (e.setRequest true) = true := by
  obtain ⟨id, vector, priority, enable, request⟩ := e
  cases request with
  | hidden v => rfl
  | register a k => exact h

/-- No move of the environment withdraws a latched request (R233). -/
theorem mem_irqPending_environment {s : State} (m : EnvMove) {id : Nat} (h : id ∈ s.irqPending) :
    id ∈ (s.environment m).irqPending := by
  cases m with
  | reset => exact h
  | request name =>
    rw [State.environment, State.raiseRequest]
    split
    · next src _ =>
      refine mem_irqPending_of_map (irqTable_setRequest_map s src true) (fun e => ?_) (fun e _ hr => ?_) h
      · split <;> rfl
      · split
        · exact requested_setRequest_true src (requested_setRequest_self hr)
        · exact requested_setRequest_true src hr
    · exact h
  | enable name on =>
    refine mem_irqPending_of_map (t := s.changeEnable name on) rfl (fun e => ?_) (fun e _ hr => ?_) h
    · split <;> rfl
    · split <;> exact hr
  | device a v =>
    rw [State.environment, State.changeDevice]
    split
    · refine mem_irqPending_of_map (s := s) (t := s.storeByte a _) (f := fun e => e) (List.map_id' s.irqTable).symm
        (fun _ => rfl) (fun e he hr => ?_) h
      unfold State.requested State.deviceBit at hr ⊢
      split
      · next w hw => simpa [hw] using hr
      · next b k hk =>
        have hbit : bitOf (s.byteAt b) k = true := by
          rw [hk] at hr
          exact hr
        rw [State.byteAt_storeByte]
        split
        · next hab =>
          subst hab
          have hor : bitOf (v ||| (s.byteAt a &&& requestMask s.irqTable a)) k =
              (bitOf v k || (bitOf (s.byteAt a) k && bitOf (requestMask s.irqTable a) k)) := by simp [bitOf]
          rw [hor, bitOf_requestMask he hk, hbit]
          simp
        · exact hbit
    all_goals exact h

/-- The accesses of an instruction do not depend on where it stands (R33). -/
theorem accesses_setPC (s : State) (pc : Word) (b : Bool) (i : Instr) :
    ({ s with pc := pc, iShadow := b } : State).accesses i = s.accesses i := by
  cases i <;> rfl

/-- An instruction leaves a request as it is, unless it writes the register that holds it (R233). -/
theorem requested_of_runInstr {s t : State} (h : runInstr s = .next t) {src : IrqSource}
    (hw : ∀ a k i rest, src.request = .register a k →
      decode [s.byteAt s.pc, s.byteAt (s.pc + 1#16), s.byteAt (s.pc + 2#16)] = .ok (i, rest) →
      Access.write a ∉ s.accesses i) : t.requested src = s.requested src := by
  obtain ⟨i, rest, hdec, hexec⟩ := runInstr_next h
  unfold State.requested State.deviceBit
  split
  · rfl
  · next a k hk =>
    have hbyte := byteAt_of_exec hexec (a := a) (by rw [accesses_setPC]; exact hw a k i rest hk hdec)
    exact congrArg (bitOf · k) hbyte

/-! ### Reset (R250) -/

theorem IrqSource.setRequest_setRequest (e : IrqSource) (v w : Bool) :
    (e.setRequest v).setRequest w = e.setRequest w := by
  obtain ⟨id, vector, priority, enable, request⟩ := e
  cases request <;> rfl

theorem bitOf_clearRequests (l : List IrqSource) (s : State) (a : Word) (k : BitNo) :
    bitOf ((clearRequests s l).byteAt a) k =
      if ∃ src ∈ l, src.request = .register a k then false else bitOf (s.byteAt a) k := by
  induction l generalizing s with
  | nil => simp [clearRequests]
  | cons src rest ih =>
    rw [clearRequests, ih, State.clearRequest, bitOf_setRequest]
    by_cases h : src.request = .register a k <;> simp [h]

theorem irqTable_clearRequests (l : List IrqSource) (s : State) :
    (clearRequests s l).irqTable = s.irqTable.map fun e =>
      if ∃ src ∈ l, e.id = src.id ∧ src.request.place = none then e.setRequest false else e := by
  induction l generalizing s with
  | nil => simp [clearRequests]
  | cons src rest ih =>
    rw [clearRequests, ih, State.clearRequest, irqTable_setRequest_map, List.map_map]
    refine List.map_congr_left fun e _ => ?_
    by_cases h : e.id = src.id ∧ src.request.place = none
    · simp [h, IrqSource.setRequest_setRequest]
    · simp [h]

/-- After a reset no source requests (R250). -/
theorem requested_dropRequests {s : State} {e : IrqSource} (he : e ∈ s.dropRequests.irqTable) :
    s.dropRequests.requested e = false := by
  rw [State.dropRequests, irqTable_clearRequests] at he
  obtain ⟨e₀, he₀, rfl⟩ := List.mem_map.mp he
  cases hp : e₀.request with
  | hidden w =>
    rw [if_pos ⟨e₀, he₀, rfl, by rw [hp]; rfl⟩]
    simp [State.requested, State.deviceBit, IrqSource.setRequest, hp, DeviceBit.setHidden]
  | register a k =>
    rw [IrqSource.setRequest_of_register hp, ite_self, State.requested, hp, State.deviceBit, State.dropRequests,
      bitOf_clearRequests, if_pos ⟨e₀, he₀, hp⟩]

end Sys2Proof.Machine

namespace Sys2Proof.Proofs
open Sys2Proof.Machine

/-- Settles O43: the poll picks the source, and the entry sequence is total where its cells are mapped. -/
theorem interruptAccepted : Obligations.InterruptAccepted := by
  intro s src hok hm hw hr
  refine ⟨fun hreset hstopped hshadow hi he htop => ?_, ?_⟩
  · simp [step, hreset, hstopped, pollIrq, requestingSource_eq hok hm hi he htop, hshadow]
  · intro pushed
    rw [acceptIrq_mapped hw hr, NextWith_next]
    refine ⟨fun a k => ?_, rfl, ?_, ?_, fun e he hid => State.requested_accepted hok hm he hid,
      State.irqTable_accepted hok hm, fun r h => State.reg_accepted s src h, fun f h => ?_, ?_, ?_, ?_, ?_⟩
    · rw [State.bitOf_accepted, State.byteAt_entered_top]
    · simp [State.accepted]
    · simp [State.flag_accepted]
    · simp [State.flag_accepted, h]
    all_goals simp [State.accepted]

/-- Settles O44: no source requests, or the poll draws at the open boundary; `requested_of_runInstr` and the moves one
by one give what keeps a request. -/
theorem interruptHeld : Obligations.InterruptHeld := by
  refine ⟨fun s hreset hstopped => ⟨fun h => ?_, fun src hm hi hshadow hok he htop => ?_⟩, fun s t h => ⟨?_, ?_⟩,
    fun s m id h => mem_irqPending_environment m h⟩
  · exact step_of_not_requesting hreset hstopped (requestingSource_none h)
  · have hpoll : pollIrq s = (if Config.freeBit s.draws then some src else none, { s with draws := s.draws + 1 }) := by
      simp [pollIrq, requestingSource_eq hok hm hi he htop, hshadow, State.drawBit]
    cases hb : Config.freeBit s.draws <;> simp [step, hreset, hstopped, hpoll, hb]
  · obtain ⟨i, rest, -, hexec⟩ := runInstr_next h
    exact (writes_of_exec hexec).irqTable
  · exact fun src _ hw => requested_of_runInstr h hw

/-- Settles O45, by what withdrawing every request leaves of the memory and of IRQ_TABLE. -/
theorem resetEvent : Obligations.ResetEvent := by
  intro s hreset hr
  have htake : takeReset s = .next { State.reset with
      pc := s.wordAt resetVector, mem := s.dropRequests.mem, memMap := s.memMap, irqTable := s.dropRequests.irqTable,
      draws := s.draws } := withPair_readable hr _
  rw [step_of_reset hreset, htake, NextWith_next]
  refine ⟨rfl, rfl, rfl, rfl, fun e he => requested_dropRequests he, parameters_of_takeReset htake, fun a k h => ?_⟩
  calc _ = bitOf (s.dropRequests.byteAt a) k := rfl
    _ = _ := by rw [State.dropRequests, bitOf_clearRequests, if_neg fun ⟨e, he, hp⟩ => h e he hp]

end Sys2Proof.Proofs
end

section
/-! PROOFS. The eight-mode group, compares and loads (R100, R101, R103 to R105, R111, R115, R118, R130, R132, R133), and
what the flags of a sum say (R14). -/

namespace Sys2Proof.Machine

/-! ### The forms -/

/-- The mnemonics of the eight-mode group that write A from A and the operand (R59). -/
inductive AluOp
  | adc | sbc
  | logic (op : LogicOp)

/-- The row of a mnemonic in the op code table (R59). -/
def AluOp.row : AluOp → BitVec 3
  | .adc => 0
  | .sbc => 1
  | .logic op => logicRow op

/-- The forms of a mnemonic. -/
def AluOp.form : AluOp → Src → Option Instr
  | .adc => adcForm
  | .sbc => sbcForm
  | .logic op => logicForm op

/-- The result of a logic operation (R101, R111, R115). -/
def logicResult : LogicOp → Byte → Byte → Byte
  | .and, a, m => a &&& m
  | .or, a, m => a ||| m
  | .eor, a, m => a ^^^ m

/-- What a mnemonic does with its operand. -/
def AluOp.apply : AluOp → Byte → State → State
  | .adc => aluAdc
  | .sbc => aluSbc
  | .logic op => fun m s => loadA (logicResult op s.a m) s

theorem AluOp.form_spec (g : AluOp) {o : Src} {i : Instr} (h : g.form o = some i) (s : State) :
    encode i = groupOpcode g.row o :: o.bytes ∧ exec i s = withSrc o s fun m => .next (g.apply m s) := by
  rcases g with _ | _ | _ | _ | _
  all_goals
    simp only [AluOp.form, adcForm, sbcForm, logicForm, eightForms] at h
    split at h <;> cases h
  all_goals
    refine ⟨?_, rfl⟩
    simp only [AluOp.row, logicRow, groupOpcode]
    rfl

/-- A compare: its bytes, and its meaning as a comparison of a register (R103, R104, R105). -/
theorem compareForm_spec {r : Reg} {o : Src} {i : Instr} (h : compareForm r o = some i) (s : State) :
    encode i = compareOpcode r o :: o.bytes ∧
      exec i s = withSrc o s fun m => .next (s.compare8 (s.reg r) m) := by
  unfold compareForm eightForms at h
  split at h
  case' h_1 => split at h
  all_goals cases h
  all_goals
    refine ⟨?_, rfl⟩
    simp only [compareOpcode, groupOpcode]
    rfl

/-- A load: its bytes, and its meaning as a register taking the operand (R130, R132, R133). -/
theorem loadForm_spec {r : Reg} {o : Src} {i : Instr} (h : loadForm r o = some i) (s : State) :
    encode i = loadOpcode r o :: o.bytes ∧
      exec i s = withSrc o s fun m => .next ((s.setReg r m).setNZ8 m) := by
  unfold loadForm eightForms at h
  split at h
  case' h_1 => split at h
  all_goals cases h
  all_goals
    refine ⟨?_, rfl⟩
    simp only [loadOpcode, groupOpcode]
    rfl

/-! ### What a sum says of its operands (R14, D30) -/

/-- The sum with a complement, as a number. -/
theorem sum8_not (a m : Byte) (c : Bool) : sum8 a (~~~m) c = a.toNat + (255 - m.toNat) + c.toNat := by
  rw [sum8, BitVec.toNat_not]

theorem sum16_not (p w : Word) (c : Bool) : sum16 p (~~~w) c = p.toNat + (65535 - w.toNat) + c.toNat := by
  rw [sum16, BitVec.toNat_not]

/-- The sum with a complement is the difference with a borrow (R118, D30). -/
theorem ofNat_sum8_not (a m : Byte) (c : Bool) :
    BitVec.ofNat 8 (sum8 a (~~~m) c) = BitVec.ofInt 8 ((a.toNat : Int) - m.toNat - (1 - c.toNat)) := by
  rw [sum8_not]
  have hm := m.isLt
  have hc := c.toNat_le
  apply BitVec.eq_of_toNat_eq
  rw [BitVec.toNat_ofNat, BitVec.toNat_ofInt]
  omega

theorem ofNat_sum16_not (p w : Word) :
    BitVec.ofNat 16 (sum16 p (~~~w) true) = BitVec.ofInt 16 ((p.toNat : Int) - w.toNat) := by
  rw [sum16_not, Bool.toNat_true]
  have hw := w.isLt
  apply BitVec.eq_of_toNat_eq
  rw [BitVec.toNat_ofNat, BitVec.toNat_ofInt]
  omega

/-- Carry out of the sum with a complement: no borrow (R118, D30). -/
theorem carry8_not (a m : Byte) (c : Bool) : 255 < sum8 a (~~~m) c ↔ m.toNat + (1 - c.toNat) ≤ a.toNat := by
  rw [sum8_not]
  have hm := m.isLt
  have hc := c.toNat_le
  omega

theorem carry16_not (p w : Word) : 65535 < sum16 p (~~~w) true ↔ w.toNat ≤ p.toNat := by
  rw [sum16_not, Bool.toNat_true]
  have hw := w.isLt
  omega

/-- Half carry of the sum with a complement: no borrow from the low nibbles (R118, D30). -/
theorem halfCarry8_not (a m : Byte) (c : Bool) :
    halfCarry8 a (~~~m) c = true ↔ m.toNat % 16 + (1 - c.toNat) ≤ a.toNat % 16 := by
  rw [halfCarry8, BitVec.toNat_not, decide_eq_true_eq]
  have hm := m.isLt
  have hc := c.toNat_le
  omega

theorem halfCarry16_not (p w : Word) :
    halfCarry16 p (~~~w) true = true ↔ w.toNat % 0x1000 ≤ p.toNat % 0x1000 := by
  rw [halfCarry16, BitVec.toNat_not, decide_eq_true_eq, Bool.toNat_true]
  have hw := w.isLt
  omega

/-! ### V says that the exact signed result does not fit (R14) -/

theorem addOverflow8_iff (a m : Byte) (c : Bool) :
    addOverflow8 a m (BitVec.ofNat 8 (sum8 a m c)) = true ↔
      a.toInt + m.toInt + c.toNat < -128 ∨ 127 < a.toInt + m.toInt + c.toNat := by
  have ha := a.isLt
  have hm := m.isLt
  have hc := c.toNat_le
  simp only [addOverflow8, Bool.and_eq_true, beq_iff_eq, bne_iff_ne, ne_eq, BitVec.msb_eq_decide, decide_eq_decide,
    BitVec.toNat_ofNat, BitVec.toInt_eq_toNat_cond, sum8]
  omega

theorem subOverflow8_iff (a m : Byte) (c : Bool) :
    subOverflow8 a m (BitVec.ofNat 8 (sum8 a (~~~m) c)) = true ↔
      a.toInt - m.toInt - (!c).toNat < -128 ∨ 127 < a.toInt - m.toInt - (!c).toNat := by
  have ha := a.isLt
  have hm := m.isLt
  have hc : (!c).toNat + c.toNat = 1 := by cases c <;> rfl
  simp only [subOverflow8, Bool.and_eq_true, bne_iff_ne, ne_eq, BitVec.msb_eq_decide, decide_eq_decide,
    BitVec.toNat_ofNat, BitVec.toInt_eq_toNat_cond, sum8_not]
  omega

theorem addOverflow16_iff (p w : Word) :
    addOverflow16 p w (BitVec.ofNat 16 (sum16 p w false)) = true ↔
      p.toInt + w.toInt < -32768 ∨ 32767 < p.toInt + w.toInt := by
  have hp := p.isLt
  have hw := w.isLt
  simp only [addOverflow16, Bool.and_eq_true, beq_iff_eq, bne_iff_ne, ne_eq, BitVec.msb_eq_decide, decide_eq_decide,
    BitVec.toNat_ofNat, BitVec.toInt_eq_toNat_cond, sum16, Bool.toNat_false]
  omega

theorem subOverflow16_iff (p w : Word) :
    subOverflow16 p w (BitVec.ofNat 16 (sum16 p (~~~w) true)) = true ↔
      p.toInt - w.toInt < -32768 ∨ 32767 < p.toInt - w.toInt := by
  have hp := p.isLt
  have hw := w.isLt
  simp only [subOverflow16, Bool.and_eq_true, bne_iff_ne, ne_eq, BitVec.msb_eq_decide, decide_eq_decide,
    BitVec.toNat_ofNat, BitVec.toInt_eq_toNat_cond, sum16_not, Bool.toNat_true]
  omega

/-! ### The flags and the result of ADC and SBC -/

theorem flag_aluAdc (m : Byte) (s : State) (f : Flag) :
    (aluAdc m s).flag f = match f with
      | .n => (aluAdc m s).a.msb
      | .z => (aluAdc m s).a == 0#8
      | .v => addOverflow8 s.a m (aluAdc m s).a
      | .h => halfCarry8 s.a m (s.flag .c)
      | .c => decide (255 < sum8 s.a m (s.flag .c))
      | k => s.flag k := by
  cases f <;> simp only [aluAdc, State.flag_setNZ8, State.flag_setFlag] <;> rfl

theorem flag_aluSbc (m : Byte) (s : State) (f : Flag) :
    (aluSbc m s).flag f = match f with
      | .n => (aluSbc m s).a.msb
      | .z => (aluSbc m s).a == 0#8
      | .v => subOverflow8 s.a m (aluSbc m s).a
      | .h => halfCarry8 s.a (~~~m) (s.flag .c)
      | .c => decide (255 < sum8 s.a (~~~m) (s.flag .c))
      | k => s.flag k := by
  cases f <;> simp only [aluSbc, State.flag_setNZ8, State.flag_setFlag] <;> rfl

theorem aluAdc_a (m : Byte) (s : State) : (aluAdc m s).a = BitVec.ofNat 8 (sum8 s.a m (s.flag .c)) := rfl

theorem aluSbc_a (m : Byte) (s : State) : (aluSbc m s).a = BitVec.ofNat 8 (sum8 s.a (~~~m) (s.flag .c)) := rfl

/-- N and Z of a byte, from the two flags of a state. -/
theorem NZOf8.of_flags {t : State} {v : Byte} (hn : t.flag .n = v.msb) (hz : t.flag .z = (v == 0#8)) : NZOf8 t v :=
  ⟨hn.trans (BitVec.msb_eq_getLsbD_last v), hz.trans (beq_eq_decide ..)⟩

/-- V of an addition, on the bits (R100). -/
theorem addOverflow8_bits (a m r : Byte) :
    addOverflow8 a m r = true ↔ a.getLsbD 7 = m.getLsbD 7 ∧ r.getLsbD 7 ≠ a.getLsbD 7 := by
  simp only [addOverflow8, BitVec.msb_eq_getLsbD_last, Bool.and_eq_true, beq_iff_eq, bne_iff_ne]

theorem subOverflow8_bits (a m r : Byte) :
    subOverflow8 a m r = true ↔ a.getLsbD 7 ≠ m.getLsbD 7 ∧ r.getLsbD 7 ≠ a.getLsbD 7 := by
  simp only [subOverflow8, BitVec.msb_eq_getLsbD_last, Bool.and_eq_true, bne_iff_ne]

/-! ### Logic, compares and loads -/

theorem getLsbD_logicResult (op : LogicOp) (a m : Byte) (k : Nat) :
    (logicResult op a m).getLsbD k = logicBit op (a.getLsbD k) (m.getLsbD k) := by
  cases op with
  | and => exact BitVec.getLsbD_and
  | or => exact BitVec.getLsbD_or
  | eor => exact BitVec.getLsbD_xor

/-- A difference modulo 256 is that of the exact numbers (R103). -/
theorem sub_eq_ofInt (r m : Byte) : r - m = BitVec.ofInt 8 ((r.toNat : Int) - m.toNat) := by
  apply BitVec.eq_of_toNat_eq
  have hm := m.isLt
  rw [BitVec.toNat_sub, BitVec.toNat_ofInt]
  omega

/-- A compare: C of the comparison, N and Z of the difference, and nothing else (R103, D30). -/
theorem compare8_result (s : State) (r m : Byte) :
    ((s.compare8 r m).flag .c = true ↔ m.toNat ≤ r.toNat) ∧
      NZOf8 (s.compare8 r m) (BitVec.ofInt 8 ((r.toNat : Int) - m.toNat)) ∧ (s.compare8 r m).pc = s.pc ∧
      OnlyChanges s (s.compare8 r m) [] [.n, .z, .c] [] := by
  refine ⟨?_, sub_eq_ofInt r m ▸ NZOf8_setNZ8 _ _, rfl, (sameBut_compare8 s r m).onlyChanges _⟩
  have hc : (s.compare8 r m).flag .c = decide (255 < sum8 r (~~~m) true) := by
    simp only [State.compare8, State.flag_setNZ8, State.flag_setFlag_same, gt_iff_lt]
  rw [hc, decide_eq_true_iff, carry8_not, Bool.toNat_true, Nat.sub_self, Nat.add_zero]

end Sys2Proof.Machine

/-! ### The statements -/

namespace Sys2Proof.Proofs

open Sys2Proof.Machine

/-- Settles O1: the flags of `aluAdc` one by one. -/
theorem adcResult : Obligations.AdcResult := by
  intro o i s h hr
  obtain ⟨henc, hexec⟩ := AluOp.adc.form_spec h s
  rw [hexec, withSrc_readable hr, NextWith_next]
  refine ⟨henc, rfl, ?_, ?_, ?_, NZOf8.of_flags (flag_aluAdc _ s .n) (flag_aluAdc _ s .z), rfl,
    (sameBut_aluAdc _ s).onlyChanges _⟩
  · exact (flag_aluAdc _ s .c ▸ decide_eq_true_iff)
  · exact (flag_aluAdc _ s .h ▸ decide_eq_true_iff)
  · exact (flag_aluAdc _ s .v ▸ addOverflow8_bits ..)

/-- Settles O2: the flags of `aluSbc` one by one, the sum with the complement read as a difference. -/
theorem sbcResult : Obligations.SbcResult := by
  intro o i s h hr
  obtain ⟨henc, hexec⟩ := AluOp.sbc.form_spec h s
  rw [hexec, withSrc_readable hr, NextWith_next]
  refine ⟨henc, ofNat_sum8_not .., ?_, ?_, ?_, NZOf8.of_flags (flag_aluSbc _ s .n) (flag_aluSbc _ s .z), rfl,
    (sameBut_aluSbc _ s).onlyChanges _⟩
  · exact (flag_aluSbc _ s .c ▸ decide_eq_true_iff.trans (carry8_not ..))
  · exact (flag_aluSbc _ s .h ▸ halfCarry8_not ..)
  · exact (flag_aluSbc _ s .v ▸ subOverflow8_bits ..)

/-- Settles O4: each logic operation loads A with the bits of `logicResult`. -/
theorem logicResult : Obligations.LogicResult := by
  intro op o i s h hr
  obtain ⟨henc, hexec⟩ := (AluOp.logic op).form_spec h s
  rw [hexec, withSrc_readable hr]
  exact ⟨henc, (NextWith_setReg_setNZ8 s .a (Machine.logicResult op s.a (o.value s))).imp fun t ⟨hv, hrest⟩ =>
    ⟨fun k => (congrArg (BitVec.getLsbD · k) hv).trans (getLsbD_logicResult ..), hrest⟩⟩

/-- Settles O5: each compare is `compare8` of its register. -/
theorem compareResult : Obligations.CompareResult := by
  intro r o i s h hr
  obtain ⟨henc, hexec⟩ := compareForm_spec h s
  rw [hexec, withSrc_readable hr, NextWith_next]
  exact ⟨henc, compare8_result s _ _⟩

/-- Settles O15: each load is a register taking the operand with its N and Z; `LDA {X}+` then steps X. -/
theorem loadResult : Obligations.LoadResult := by
  intro s
  refine ⟨fun r o i h hr => ?_, fun hr => ⟨rfl, ?_⟩⟩
  · obtain ⟨henc, hexec⟩ := loadForm_spec h s
    rw [hexec, withSrc_readable hr]
    exact ⟨henc, (NextWith_setReg_setNZ8 s r _).imp fun t ⟨hv, hnz, hrest⟩ => ⟨hv, hv ▸ hnz, hrest⟩⟩
  · have hcells : CanRead s (Src.cells (.mem .indX) s) := (CanRead_cons ..).mpr ⟨hr, CanRead_nil s⟩
    have hexec : exec .ldaIndXInc s = .next ((loadA (s.byteAt (s.dpAddr s.x)) s).setReg .x (s.x + 1#8)) :=
      withSrc_readable hcells fun m => .next { loadA m s with x := s.x + 1#8 }
    rw [hexec, NextWith_next]
    refine ⟨rfl, BitVec.toNat_add .., ?_, rfl, (((SameBut.refl s [.a, .x] [.n, .z]).setReg (r := .a) (by simp) _).setNZ8
      (by simp) (by simp) _ |>.setReg (r := .x) (by simp) _).onlyChanges _⟩
    exact NZOf8_setNZ8 { s with a := s.byteAt (s.dpAddr s.x) } _

end Sys2Proof.Proofs
end

section
/-! PROOFS. The 16-bit operations (R150 to R156), and V as signed overflow (R14). -/

namespace Sys2Proof.Machine

/-! ### ADDW, SUBW and CMPW -/

theorem addYA_ya (w : Word) (s : State) : (addYA w s).ya = BitVec.ofNat 16 (sum16 s.ya w false) := State.ya_setYA s _

theorem subYA_ya (w : Word) (s : State) : (subYA w s).ya = BitVec.ofNat 16 (sum16 s.ya (~~~w) true) :=
  State.ya_setYA s _

theorem flag_addYA (w : Word) (s : State) (f : Flag) :
    (addYA w s).flag f = match f with
      | .n => (addYA w s).ya.msb
      | .z => (addYA w s).ya == 0#16
      | .v => addOverflow16 s.ya w (addYA w s).ya
      | .h => halfCarry16 s.ya w false
      | .c => decide (65535 < sum16 s.ya w false)
      | k => s.flag k := by
  rw [addYA_ya]
  cases f <;> simp only [addYA, State.flag_setNZ16, State.flag_setFlag] <;> rfl

theorem flag_subYA (w : Word) (s : State) (f : Flag) :
    (subYA w s).flag f = match f with
      | .n => (subYA w s).ya.msb
      | .z => (subYA w s).ya == 0#16
      | .v => subOverflow16 s.ya w (subYA w s).ya
      | .h => halfCarry16 s.ya (~~~w) true
      | .c => decide (65535 < sum16 s.ya (~~~w) true)
      | k => s.flag k := by
  rw [subYA_ya]
  cases f <;> simp only [subYA, State.flag_setNZ16, State.flag_setFlag] <;> rfl

/-- N and Z of a word, from the two flags of a state. -/
theorem NZOf16.of_flags {t : State} {w : Word} (hn : t.flag .n = w.msb) (hz : t.flag .z = (w == 0#16)) : NZOf16 t w :=
  ⟨hn.trans (BitVec.msb_eq_getLsbD_last w), hz.trans (beq_eq_decide ..)⟩

/-- `setNZ16` makes N and Z those of the word (R9). -/
theorem NZOf16_setNZ16 (s : State) (w : Word) : NZOf16 (s.setNZ16 w) w :=
  NZOf16.of_flags (State.flag_setNZ16 s w .n) (State.flag_setNZ16 s w .z)

/-- V of a 16-bit addition, on the bits (R150). -/
theorem addOverflow16_bits (p w r : Word) :
    addOverflow16 p w r = true ↔ p.getLsbD 15 = w.getLsbD 15 ∧ r.getLsbD 15 ≠ p.getLsbD 15 := by
  simp only [addOverflow16, BitVec.msb_eq_getLsbD_last, Bool.and_eq_true, beq_iff_eq, bne_iff_ne]

theorem subOverflow16_bits (p w r : Word) :
    subOverflow16 p w r = true ↔ p.getLsbD 15 ≠ w.getLsbD 15 ∧ r.getLsbD 15 ≠ p.getLsbD 15 := by
  simp only [subOverflow16, BitVec.msb_eq_getLsbD_last, Bool.and_eq_true, bne_iff_ne]

theorem sub16_eq_ofInt (p w : Word) : p - w = BitVec.ofInt 16 ((p.toNat : Int) - w.toNat) := by
  apply BitVec.eq_of_toNat_eq
  have hw := w.isLt
  rw [BitVec.toNat_sub, BitVec.toNat_ofInt]
  omega

/-- CMPW: C of the comparison, N and Z of the difference, and nothing else (R151, D30). -/
theorem compare16_result (s : State) (p w : Word) :
    ((s.compare16 p w).flag .c = true ↔ w.toNat ≤ p.toNat) ∧
      NZOf16 (s.compare16 p w) (BitVec.ofInt 16 ((p.toNat : Int) - w.toNat)) ∧ (s.compare16 p w).pc = s.pc ∧
      OnlyChanges s (s.compare16 p w) [] [.n, .z, .c] [] := by
  refine ⟨?_, sub16_eq_ofInt p w ▸ NZOf16_setNZ16 _ _, rfl, (sameBut_compare16 s p w).onlyChanges _⟩
  have hc : (s.compare16 p w).flag .c = decide (65535 < sum16 p (~~~w) true) := by
    simp only [State.compare16, State.flag_setNZ16, State.flag_setFlag_same, gt_iff_lt]
  rw [hc, decide_eq_true_iff, carry16_not]

/-! ### Pairs of memory -/

/-- The direct-page pair after a 16-bit store to it (R36, R37). -/
theorem State.byteAt_storeDpWord (s : State) (dp : Byte) (w : Word) :
    (s.storeWord (s.dpAddr dp) (s.dpAddrHi dp) w).byteAt (s.dpAddr dp) = loByte w ∧
      (s.storeWord (s.dpAddr dp) (s.dpAddrHi dp) w).byteAt (s.dpAddrHi dp) = hiByte w := by
  have hne := s.dpAddr_ne_dpAddrHi dp
  constructor
  · rw [State.byteAt_storeWord _ _ _ hne, if_pos rfl]
  · rw [State.byteAt_storeWord _ _ _ hne, if_neg hne.symm, if_pos rfl]

theorem OnlyChanges.storeDpWord (s : State) (dp : Byte) (w : Word) (flags : List Flag) :
    OnlyChanges s (s.storeWord (s.dpAddr dp) (s.dpAddrHi dp) w) [] flags (s.dpCells dp) :=
  ((OnlyChanges.refl ..).storeByte (by simp [State.dpCells]) _).storeByte (by simp [State.dpCells]) _

/-- A direct-page pair read, and another word stored back with its N and Z: nothing else differs (R152, R153). -/
theorem NextWith_modifyDpWord_setNZ16 {s : State} {dp : Byte} (hw : CanWrite s (s.dpCells dp)) (f : Word → Word) :
    NextWith (withDpWord s dp fun w => storingDpWord s dp (f w) fun t => .next (t.setNZ16 (f w))) fun t =>
      mkWord (t.byteAt (s.dpAddrHi dp)) (t.byteAt (s.dpAddr dp)) = f (s.dpWord dp) ∧
        NZOf16 t (mkWord (t.byteAt (s.dpAddrHi dp)) (t.byteAt (s.dpAddr dp))) ∧ t.pc = s.pc ∧
        OnlyChanges s t [] [.n, .z] (s.dpCells dp) := by
  obtain ⟨hlo, hhi⟩ := s.byteAt_storeDpWord dp (f (s.dpWord dp))
  rw [withDpWord_readable (fun a ha => (hw a ha).readable), storingDpWord_writable hw, NextWith_next,
    State.byteAt_setNZ16, State.byteAt_setNZ16, hlo, hhi, mkWord_hiByte_loByte]
  exact ⟨rfl, NZOf16_setNZ16 _ _, rfl, (OnlyChanges.storeDpWord s dp _ _).sameBut (sameBut_setNZ16 _ _)⟩

end Sys2Proof.Machine

/-! ### The statements -/

namespace Sys2Proof.Proofs

open Sys2Proof.Machine

/-- Settles O3: the V of each sum, by `addOverflow8_iff` and its like. -/
theorem overflowIsSigned : Obligations.OverflowIsSigned := by
  intro s
  refine ⟨fun o i h hr => ?_, fun o i h hr => ?_, fun dp hr => ?_, fun dp hr => ?_⟩
  · obtain ⟨-, hexec⟩ := AluOp.adc.form_spec h s
    rw [hexec, withSrc_readable hr, NextWith_next]
    exact flag_aluAdc _ s .v ▸ addOverflow8_iff ..
  · obtain ⟨-, hexec⟩ := AluOp.sbc.form_spec h s
    rw [hexec, withSrc_readable hr, NextWith_next]
    exact flag_aluSbc _ s .v ▸ subOverflow8_iff ..
  · have hexec : exec (.addw dp) s = .next (addYA (s.dpWord dp) s) := withDpWord_readable hr fun w => .next (addYA w s)
    rw [hexec, NextWith_next, flag_addYA _ s .v, addYA_ya]
    exact addOverflow16_iff ..
  · have hexec : exec (.subw dp) s = .next (subYA (s.dpWord dp) s) := withDpWord_readable hr fun w => .next (subYA w s)
    rw [hexec, NextWith_next, flag_subYA _ s .v, subYA_ya]
    exact subOverflow16_iff ..

/-- Settles O21: the flags of `addYA` one by one. -/
theorem addwResult : Obligations.AddwResult := by
  intro dp s hr
  have hexec : exec (.addw dp) s = .next (addYA (s.dpWord dp) s) := withDpWord_readable hr fun w => .next (addYA w s)
  rw [hexec, NextWith_next]
  refine ⟨rfl, ?_, ?_, ?_, ?_, NZOf16.of_flags (flag_addYA _ s .n) (flag_addYA _ s .z), rfl,
    (sameBut_addYA _ s).onlyChanges _⟩
  · rw [addYA_ya, BitVec.toNat_ofNat]
    rfl
  · exact flag_addYA _ s .c ▸ decide_eq_true_iff
  · exact flag_addYA _ s .h ▸ decide_eq_true_iff
  · exact flag_addYA _ s .v ▸ addOverflow16_bits ..

/-- Settles O22: the flags of `subYA` one by one, the sum with the complement read as a difference; CMPW is
`compare16`. -/
theorem subwCmpwResult : Obligations.SubwCmpwResult := by
  intro dp s hr
  constructor
  · have hexec : exec (.subw dp) s = .next (subYA (s.dpWord dp) s) := withDpWord_readable hr fun w => .next (subYA w s)
    rw [hexec, NextWith_next]
    refine ⟨rfl, (subYA_ya _ s).trans (ofNat_sum16_not ..), ?_, ?_, ?_,
      NZOf16.of_flags (flag_subYA _ s .n) (flag_subYA _ s .z), rfl, (sameBut_subYA _ s).onlyChanges _⟩
    · exact flag_subYA _ s .c ▸ decide_eq_true_iff.trans (carry16_not ..)
    · exact flag_subYA _ s .h ▸ halfCarry16_not ..
    · exact flag_subYA _ s .v ▸ subOverflow16_bits ..
  · have hexec : exec (.cmpw dp) s = .next (s.compare16 s.ya (s.dpWord dp)) :=
      withDpWord_readable hr fun w => .next (s.compare16 s.ya w)
    rw [hexec, NextWith_next]
    exact ⟨rfl, compare16_result s _ _⟩

/-- Settles O23: YA takes the word of the pair, and the pair takes the word of YA. -/
theorem pairLoadStoreResult : Obligations.PairLoadStoreResult := by
  intro dp s
  refine ⟨fun hr => ⟨rfl, ?_⟩, fun hw => ⟨rfl, ?_⟩⟩
  · have hexec : exec (.ldya dp) s = .next ((s.setYA (s.dpWord dp)).setNZ16 (s.dpWord dp)) :=
      withDpWord_readable hr fun w => .next ((s.setYA w).setNZ16 w)
    have hya : ((s.setYA (s.dpWord dp)).setNZ16 (s.dpWord dp)).ya = s.dpWord dp := State.ya_setYA s _
    rw [hexec, NextWith_next, hya]
    exact ⟨loByte_mkWord .., hiByte_mkWord .., NZOf16_setNZ16 _ _, rfl, (sameBut_setYA_setNZ16 s _).onlyChanges _⟩
  · have hexec : exec (.stya dp) s = .next (s.storeWord (s.dpAddr dp) (s.dpAddrHi dp) s.ya) :=
      storingDpWord_writable hw s.ya fun t => .next t
    obtain ⟨hlo, hhi⟩ := s.byteAt_storeDpWord dp s.ya
    rw [hexec, NextWith_next, hlo, hhi]
    exact ⟨loByte_mkWord .., hiByte_mkWord .., rfl, OnlyChanges.storeDpWord s dp _ _⟩

/-- Settles O24: the pair is read, and the next or previous word stored back. -/
theorem pairStepResult : Obligations.PairStepResult := by
  intro dp s hw
  constructor
  · refine ⟨rfl, (NextWith_modifyDpWord_setNZ16 hw (· + 1#16)).imp fun t ⟨hv, hrest⟩ => ⟨?_, hrest⟩⟩
    rw [hv]
    exact BitVec.toNat_add ..
  · refine ⟨rfl, (NextWith_modifyDpWord_setNZ16 hw (· - 1#16)).imp fun t ⟨hv, hrest⟩ => ⟨?_, hrest⟩⟩
    rw [hv, BitVec.toNat_sub, Nat.add_comm]
    rfl

end Sys2Proof.Proofs
end

section
/-! PROOFS. INC, decimal adjustment, MUL and DIV (R107, R108, R110, R112, R114). -/

namespace Sys2Proof.Machine

/-! ### INC -/

/-- INC of memory: its bytes, its meaning, and that no mode of it reads a pointer. -/
theorem incFormMem_spec {m : Mode} {i : Instr} (h : stepFormMem true m = some i) (s : State) :
    encode i = stepOpcode 4 (some m) :: m.bytes ∧ exec i s = incMem m s ∧ m.pointerCells s = [] := by
  cases m <;> cases h
  all_goals
    refine ⟨?_, rfl, rfl⟩
    simp only [stepOpcode]
    rfl

/-- A register takes its value plus one: nothing but it, N and Z differs (R112). -/
theorem NextWith_incReg (s : State) (r : Reg) :
    NextWith (.next ((s.setReg r (s.reg r + 1#8)).setNZ8 (s.reg r + 1#8))) fun t =>
      (t.reg r).toNat = ((s.reg r).toNat + 1) % 256 ∧ NZOf8 t (t.reg r) ∧ t.pc = s.pc ∧
        OnlyChanges s t [r] [.n, .z] [] :=
  (NextWith_setReg_setNZ8 s r _).imp fun _ ⟨hv, hrest⟩ => ⟨hv ▸ BitVec.toNat_add .., hrest⟩

/-- Drawing another flag keeps N and Z. -/
theorem NZOf8.drawFlag {t : State} {v : Byte} (h : NZOf8 t v) {f : Flag} (hn : f ≠ .n) (hz : f ≠ .z) :
    NZOf8 (t.drawFlag f) v := by
  rwa [NZOf8, State.flag_drawFlag, State.flag_drawFlag, if_neg hn, if_neg hz]

/-! ### Decimal adjustment -/

theorem snd_daaFn (a : Byte) (c h : Bool) : (daaFn a c h).2 = true ↔ c = true ∨ 0x99 < a.toNat := by
  simp only [daaFn, Bool.or_eq_true, decide_eq_true_eq, gt_iff_lt]

theorem snd_dasFn (a : Byte) (c h : Bool) : (dasFn a c h).2 = true ↔ c = true ∧ a.toNat ≤ 0x99 := by
  simp [dasFn]

theorem toNat_add_if (a k : Byte) (p : Prop) [Decidable p] :
    (if p then a + k else a).toNat = (a.toNat + if p then k.toNat else 0) % 256 := by
  have ha := a.isLt
  split
  · exact BitVec.toNat_add ..
  · omega

theorem toNat_sub_if (a k : Byte) (p : Prop) [Decidable p] :
    (if p then a - k else a).toNat = (a.toNat + if p then 256 - k.toNat else 0) % 256 := by
  have ha := a.isLt
  split
  · rw [BitVec.toNat_sub, Nat.add_comm]
  · omega

/-- DAA on the numbers: the correction of the high digit leaves the low one (R107). -/
theorem toNat_daaFn (a : Byte) (c h : Bool) :
    (daaFn a c h).1.toNat = (a.toNat + (if c = true ∨ 0x99 < a.toNat then 0x60 else 0) +
      (if h = true ∨ 9 < a.toNat % 16 then 6 else 0)) % 256 := by
  have hlow : (a.toNat + if c = true ∨ 0x99 < a.toNat then 0x60 else 0) % 256 % 16 = a.toNat % 16 := by
    split <;> omega
  simp only [daaFn, Bool.or_eq_true, decide_eq_true_eq, gt_iff_lt, toNat_add_if, BitVec.toNat_ofNat, Nat.reducePow,
    Nat.reduceMod, hlow]
  omega

/-- DAS on the numbers: the correction of the high digit leaves the low one (R108). -/
theorem toNat_dasFn (a : Byte) (c h : Bool) :
    (dasFn a c h).1.toNat = (a.toNat + (if c = true ∧ a.toNat ≤ 0x99 then 0 else 256 - 0x60) +
      (if h = true ∧ a.toNat % 16 ≤ 9 then 0 else 256 - 6)) % 256 := by
  have hlow : (a.toNat + if c = false ∨ 0x99 < a.toNat then 160 else 0) % 256 % 16 = a.toNat % 16 := by
    split <;> omega
  have hhigh : (c = false ∨ 0x99 < a.toNat) ↔ ¬(c = true ∧ a.toNat ≤ 0x99) := by cases c <;> simp
  have hhalf : (h = false ∨ 9 < a.toNat % 16) ↔ ¬(h = true ∧ a.toNat % 16 ≤ 9) := by cases h <;> simp
  simp only [dasFn, Bool.or_eq_true, Bool.not_eq_true', decide_eq_true_eq, gt_iff_lt, toNat_sub_if, BitVec.toNat_ofNat,
    Nat.reducePow, Nat.reduceMod, Nat.reduceSub, hlow]
  simp only [hhigh, hhalf, ite_not]
  omega

/-- DAA and DAS: A, C, N and Z, and nothing else (R107, R108). -/
theorem adjustA_result (r : Byte × Bool) (s : State) :
    (adjustA r s).flag .c = r.2 ∧ (adjustA r s).a = r.1 ∧ NZOf8 (adjustA r s) (adjustA r s).a ∧
      (adjustA r s).pc = s.pc ∧ OnlyChanges s (adjustA r s) [.a] [.n, .z, .c] [] := by
  refine ⟨?_, rfl, NZOf8_setNZ8 { s.setFlag .c r.2 with a := r.1 } r.1, rfl,
    (sameBut_setFlag_loadA s _ _).onlyChanges _⟩
  simp only [adjustA, loadA_eq_setReg, State.flag_setNZ8, State.flag_setReg, State.flag_setFlag_same]

theorem isBcd_iff (v : Byte) : isBcd v = true ↔ v.toNat % 16 ≤ 9 ∧ v.toNat / 16 ≤ 9 := by
  simp only [isBcd, Bool.and_eq_true, decide_eq_true_eq]

/-- DAA, digit by digit: `hi` and `lo` are the sums of the high and the low digits, a carry-in among the latter
(R107). -/
theorem daa_digits : ∀ hi < 19, ∀ lo < 20,
    ((16 * hi + lo) % 256 + (if 255 < 16 * hi + lo ∨ 153 < (16 * hi + lo) % 256 then 96 else 0) +
      (if 15 < lo ∨ 9 < (16 * hi + lo) % 256 % 16 then 6 else 0)) % 256 = 16 * ((hi + lo / 10) % 10) + lo % 10 ∧
    ((255 < 16 * hi + lo ∨ 153 < (16 * hi + lo) % 256) ↔ 10 ≤ hi + lo / 10) := by decide

/-- DAS, digit by digit: `hi` and `lo` are the differences of the digits, plus ten (R108). -/
theorem das_digits : ∀ hi < 20, ∀ lo < 20, 0 < hi →
    ((86 + 16 * hi + lo) % 256 + (if 255 < 86 + 16 * hi + lo ∧ (86 + 16 * hi + lo) % 256 ≤ 153 then 0 else 160) +
      (if 10 ≤ lo ∧ (86 + 16 * hi + lo) % 256 % 16 ≤ 9 then 0 else 250)) % 256 =
        16 * ((hi + 9 + lo / 10) % 10) + lo % 10 ∧
    ((255 < 86 + 16 * hi + lo ∧ (86 + 16 * hi + lo) % 256 ≤ 153) ↔ 11 ≤ hi + lo / 10) := by decide

/-- DAA after the sum of two packed-BCD bytes gives the decimal sum (R107, D10). -/
theorem daaFn_sum {a m : Byte} (c : Bool) (ha : isBcd a = true) (hm : isBcd m = true) {r : Byte × Bool}
    (hr : r = daaFn (BitVec.ofNat 8 (sum8 a m c)) (decide (255 < sum8 a m c)) (halfCarry8 a m c)) :
    isBcd r.1 = true ∧ bcdValue r.1 = (bcdValue a + bcdValue m + c.toNat) % 100 ∧
      (r.2 = true ↔ 100 ≤ bcdValue a + bcdValue m + c.toNat) := by
  obtain ⟨halo, hahi⟩ := (isBcd_iff a).mp ha
  obtain ⟨hmlo, hmhi⟩ := (isBcd_iff m).mp hm
  have hc := c.toNat_le
  obtain ⟨hdigits, hcarry⟩ := daa_digits (a.toNat / 16 + m.toNat / 16) (by omega)
    (a.toNat % 16 + m.toNat % 16 + c.toNat) (by omega)
  have hsum : 16 * (a.toNat / 16 + m.toNat / 16) + (a.toNat % 16 + m.toNat % 16 + c.toNat) = sum8 a m c := by
    rw [sum8]
    omega
  rw [hsum] at hdigits hcarry
  have hr1 : r.1.toNat = _ := hr ▸ toNat_daaFn ..
  have hr2 : r.2 = true ↔ _ := hr ▸ snd_daaFn ..
  simp only [halfCarry8, decide_eq_true_eq, BitVec.toNat_ofNat, Nat.reducePow, gt_iff_lt, hdigits] at hr1
  simp only [decide_eq_true_eq, BitVec.toNat_ofNat, Nat.reducePow, hcarry] at hr2
  rw [isBcd_iff, hr2, bcdValue, bcdValue, bcdValue, hr1]
  clear hr hr1 hr2 hsum hdigits hcarry
  omega

/-- DAS after the difference of two packed-BCD bytes gives the decimal difference (R108, D10, D30). -/
theorem dasFn_difference {a m : Byte} (c : Bool) (ha : isBcd a = true) (hm : isBcd m = true) {r : Byte × Bool}
    (hr : r = dasFn (BitVec.ofNat 8 (sum8 a (~~~m) c)) (decide (255 < sum8 a (~~~m) c)) (halfCarry8 a (~~~m) c)) :
    isBcd r.1 = true ∧ bcdValue r.1 = (100 + bcdValue a - bcdValue m - (1 - c.toNat)) % 100 ∧
      (r.2 = true ↔ bcdValue m + (1 - c.toNat) ≤ bcdValue a) := by
  obtain ⟨halo, hahi⟩ := (isBcd_iff a).mp ha
  obtain ⟨hmlo, hmhi⟩ := (isBcd_iff m).mp hm
  have hc := c.toNat_le
  obtain ⟨hdigits, hcarry⟩ := das_digits (10 + a.toNat / 16 - m.toNat / 16) (by omega)
    (9 + a.toNat % 16 - m.toNat % 16 + c.toNat) (by omega) (by omega)
  have hsum : 86 + 16 * (10 + a.toNat / 16 - m.toNat / 16) + (9 + a.toNat % 16 - m.toNat % 16 + c.toNat) =
      sum8 a (~~~m) c := by
    rw [sum8_not]
    omega
  have hhalf : halfCarry8 a (~~~m) c = decide (10 ≤ 9 + a.toNat % 16 - m.toNat % 16 + c.toNat) := by
    rw [Bool.eq_iff_iff, halfCarry8_not, decide_eq_true_iff]
    omega
  rw [hsum] at hdigits hcarry
  rw [hhalf] at hr
  have hr1 : r.1.toNat = _ := hr ▸ toNat_dasFn ..
  have hr2 : r.2 = true ↔ _ := hr ▸ snd_dasFn ..
  simp only [decide_eq_true_eq, BitVec.toNat_ofNat, Nat.reducePow, Nat.reduceSub, hdigits] at hr1
  simp only [decide_eq_true_eq, BitVec.toNat_ofNat, Nat.reducePow, hcarry] at hr2
  rw [isBcd_iff, hr2, bcdValue, bcdValue, bcdValue, hr1]
  clear hr hr1 hr2 hsum hdigits hcarry hhalf
  omega

/-! ### MUL and DIV -/

theorem div_lt_of_hi_lt {hi lo : Byte} {d : Nat} (h : hi.toNat < d) : (mkWord hi lo).toNat / d < 256 := by
  have hlo := lo.isLt
  rw [mkWord_toNat, Nat.div_lt_iff_lt_mul (Nat.zero_lt_of_lt h)]
  omega

/-- DIV with Y < X: the exact quotient and remainder, V = 0, N and Z of the quotient (R110). -/
theorem divideExact_result {s : State} (h : s.y.toNat < s.x.toNat) :
    256 * s.y.toNat + s.a.toNat = (divideExact s).a.toNat * s.x.toNat + (divideExact s).y.toNat ∧
      (divideExact s).y.toNat < s.x.toNat ∧ (divideExact s).flag .v = false ∧
      NZOf8 (divideExact s) (divideExact s).a := by
  have hx : 0 < s.x.toNat := Nat.zero_lt_of_lt h
  have hq : (divideExact s).a.toNat = s.ya.toNat / s.x.toNat :=
    (BitVec.toNat_ofNat ..).trans (Nat.mod_eq_of_lt (div_lt_of_hi_lt h))
  have hr : (divideExact s).y.toNat = s.ya.toNat % s.x.toNat :=
    (BitVec.toNat_ofNat ..).trans (Nat.mod_eq_of_lt ((Nat.mod_lt _ hx).trans s.x.isLt))
  have hya : 256 * s.y.toNat + s.a.toNat = s.ya.toNat := by rw [State.ya, mkWord_toNat, Nat.mul_comm]
  refine ⟨?_, ?_, ?_, ?_⟩
  · rw [hq, hr, hya, Nat.mul_comm, Nat.div_add_mod]
  · rw [hr]
    exact Nat.mod_lt _ hx
  · simp [divideExact_eq, State.flag_drawFlag, State.flag_setNZ8]
  · rw [divideExact_eq]
    exact (NZOf8_setNZ8 _ _).drawFlag (by simp) (by simp)

theorem flag_v_divideOverflow (s : State) : (divideOverflow s).flag .v = true := by
  simp only [divideOverflow_eq, State.flag_drawFlag, State.flag_setReg, reduceCtorEq, if_false]
  exact State.flag_setFlag_same s .v true

end Sys2Proof.Machine

/-! ### The statements -/

namespace Sys2Proof.Proofs

open Sys2Proof.Machine

/-- Settles O7, the memory forms by read-modify-write and the register forms by one register update; after INC A the
model draws C besides. -/
theorem incrementResult : Obligations.IncrementResult := by
  intro s
  refine ⟨fun m i h hw => ?_, ⟨rfl, NextWith_incReg s .x⟩, ⟨rfl, NextWith_incReg s .y⟩, rfl, ?_⟩
  · obtain ⟨henc, hexec, hptr⟩ := incFormMem_spec h s
    rw [hexec]
    refine ⟨henc, (NextWith_modifyMode_setNZ8 (by simp [hptr]) hw (· + 1#8)).imp fun t ⟨hv, hrest⟩ => ⟨?_, hrest⟩⟩
    exact hv ▸ BitVec.toNat_add ..
  · have hexec : exec .incA s = .next ((loadA (s.a + 1#8) s).drawFlag .c) := rfl
    rw [hexec, NextWith_next]
    exact ⟨BitVec.toNat_add .., (NZOf8_setNZ8 { s with a := s.a + 1#8 } _).drawFlag (by simp) (by simp), rfl,
      (sameBut_incA s _).onlyChanges _⟩

/-- Settles O10: the state between the two instructions is `aluAdc` or `aluSbc`, whose A, C and H `daaFn_sum` and
`dasFn_difference` are about. -/
theorem bcdAddAndSubtract : Obligations.BcdAddAndSubtract := by
  intro v s ha hv
  have hadc : exec (.adcImm v) s = .next (aluAdc v s) := rfl
  have hsbc : exec (.sbcImm v) s = .next (aluSbc v s) := rfl
  have hdaa (t : State) : exec .daa t = .next (adjustA (daaFn t.a (t.flag .c) (t.flag .h)) t) := rfl
  have hdas (t : State) : exec .das t = .next (adjustA (dasFn t.a (t.flag .c) (t.flag .h)) t) := rfl
  rw [hadc, hsbc, NextWith_next, NextWith_next, hdaa, hdas, NextWith_next, NextWith_next, (adjustA_result _ _).1,
    (adjustA_result _ _).1]
  constructor
  · exact daaFn_sum (s.flag .c) ha hv (by rw [flag_aluAdc, flag_aluAdc, aluAdc_a])
  · exact dasFn_difference (s.flag .c) ha hv (by rw [flag_aluSbc, flag_aluSbc, aluSbc_a])

/-- Settles O11: the two adjustments on the numbers. -/
theorem decimalAdjustResult : Obligations.DecimalAdjustResult := by
  intro s
  have hdaa : exec .daa s = .next (adjustA (daaFn s.a (s.flag .c) (s.flag .h)) s) := rfl
  have hdas : exec .das s = .next (adjustA (dasFn s.a (s.flag .c) (s.flag .h)) s) := rfl
  rw [hdaa, hdas, NextWith_next, NextWith_next]
  constructor
  · obtain ⟨hc, ha, hrest⟩ := adjustA_result (daaFn s.a (s.flag .c) (s.flag .h)) s
    exact ⟨rfl, hc ▸ snd_daaFn .., ha ▸ toNat_daaFn .., hrest⟩
  · obtain ⟨hc, ha, hrest⟩ := adjustA_result (dasFn s.a (s.flag .c) (s.flag .h)) s
    exact ⟨rfl, hc ▸ snd_dasFn .., ha ▸ toNat_dasFn .., hrest⟩

/-- Settles O12: the product of two bytes fits into YA. -/
theorem mulResult : Obligations.MulResult := by
  intro s
  have hexec : exec .mul s =
      .next (((s.setYA (BitVec.ofNat 16 (s.y.toNat * s.a.toNat))).drawFlag .n).drawFlag .z) := rfl
  rw [hexec, NextWith_next]
  refine ⟨rfl, ?_, rfl, (sameBut_mul s _).onlyChanges _⟩
  have hlt : s.y.toNat * s.a.toNat < 256 * 256 := Nat.mul_lt_mul'' s.y.isLt s.a.isLt
  have hy : ((s.setYA (BitVec.ofNat 16 (s.y.toNat * s.a.toNat))).drawFlag .n |>.drawFlag .z).y.toNat =
      s.y.toNat * s.a.toNat % 65536 / 256 := hiByte_toNat _
  have ha : ((s.setYA (BitVec.ofNat 16 (s.y.toNat * s.a.toNat))).drawFlag .n |>.drawFlag .z).a.toNat =
      s.y.toNat * s.a.toNat % 65536 % 256 := loByte_toNat _
  rw [hy, ha]
  omega

/-- Settles O13, the two cases of the rule apart. -/
theorem divResult : Obligations.DivResult := by
  intro s
  have hexec : exec .div s = .next (if s.y.toNat < s.x.toNat then divideExact s else divideOverflow s) := rfl
  have hframe := sameBut_div s
  rw [hexec, NextWith_next]
  refine ⟨rfl, ?_, hframe.pc, hframe.onlyChanges _⟩
  split
  · exact divideExact_result ‹_›
  · exact flag_v_divideOverflow s

end Sys2Proof.Proofs
end

section
/-! PROOFS. Stores, exchanges with memory, TXSP, TSET1 and TCLR1, EI, DI and STOP (R131, R134 to R136, R141, R145, R180,
R181, R211, R212, R218). -/

namespace Sys2Proof.Machine

/-- A store: its bytes, and its meaning as one register stored at the effective address (R134, R135, R136). -/
theorem storeForm_spec {r : Reg} {m : Mode} {i : Instr} (h : storeForm r m = some i) (s : State) :
    encode i = storeOpcode r m :: m.bytes ∧ exec i s = storeMode m (s.reg r) s fun t => .next t := by
  cases r <;> cases m <;> cases h
  all_goals
    refine ⟨?_, rfl⟩
    simp only [storeOpcode, groupOpcode]
    rfl

/-- One byte stored at the effective address: nothing else differs (R39). -/
theorem NextWith_storeMode {m : Mode} {s : State} (hp : CanRead s (m.pointerCells s)) (hw : Writable s (m.ea s))
    (v : Byte) :
    NextWith (storeMode m v s fun t => .next t) fun t =>
      t.byteAt (m.ea s) = v ∧ t.pc = s.pc ∧ OnlyChanges s t [] [] [m.ea s] := by
  rw [storeMode_mapped hp hw, NextWith_next, State.byteAt_storeByte, if_pos rfl]
  exact ⟨rfl, rfl, (OnlyChanges.refl ..).storeByte (by simp) v⟩

/-- XMA: its meaning, and that no mode of it reads a pointer. -/
theorem xmaForm_spec {m : Mode} {i : Instr} (h : xmaForm m = some i) (s : State) :
    exec i s = exchangeA m s ∧ m.pointerCells s = [] := by
  cases m <;> cases h <;> exact ⟨rfl, rfl⟩

/-- Read-modify-write of an absolute cell, with N and Z of a comparison with A: nothing else differs (R180, R181,
D25). -/
theorem NextWith_testAndModify {s : State} {addr : Word} (hw : Writable s addr) (f : Byte → Byte) :
    NextWith (modifyMode (.abs addr) f (fun v t => t.setNZ8 (s.a - v)) s) fun t =>
      t.byteAt addr = f (s.byteAt addr) ∧ NZOf8 t (BitVec.ofInt 8 ((s.a.toNat : Int) - (s.byteAt addr).toNat)) ∧
        t.pc = s.pc ∧ OnlyChanges s t [] [.n, .z] [addr] := by
  have hexec : modifyMode (.abs addr) f (fun v t => t.setNZ8 (s.a - v)) s =
      .next ((s.storeByte addr (f (s.byteAt addr))).setNZ8 (s.a - s.byteAt addr)) :=
    modifyMode_mapped (m := .abs addr) (CanRead_nil s) hw f _
  rw [hexec, NextWith_next, State.byteAt_setNZ8, State.byteAt_storeByte, if_pos rfl, ← sub_eq_ofInt]
  exact ⟨rfl, NZOf8_setNZ8 _ _, rfl, ((OnlyChanges.refl ..).storeByte (by simp) _).setNZ8 (by simp) (by simp) _⟩

end Sys2Proof.Machine

/-! ### The statements -/

namespace Sys2Proof.Proofs

open Sys2Proof.Machine

/-- Settles O16: each store is one byte at the effective address; `STA {X}+` then steps X. -/
theorem storeResult : Obligations.StoreResult := by
  intro s
  refine ⟨fun r m i h hp hw => ?_, fun imm dp hw => ⟨rfl, ?_⟩, fun hw => ⟨rfl, ?_⟩⟩
  · obtain ⟨henc, hexec⟩ := storeForm_spec h s
    rw [hexec]
    exact ⟨henc, NextWith_storeMode hp hw _⟩
  · exact NextWith_storeMode (m := .dp dp) (CanRead_nil s) hw imm
  · have hexec : exec .staIndXInc s = .next ((s.storeByte (s.dpAddr s.x) s.a).setReg .x (s.x + 1#8)) :=
      storeMode_mapped (m := .indX) (CanRead_nil s) hw s.a fun t => .next { t with x := t.x + 1#8 }
    rw [hexec, NextWith_next, State.byteAt_setReg, State.byteAt_storeByte, if_pos rfl]
    exact ⟨rfl, BitVec.toNat_add .., rfl, ((OnlyChanges.refl ..).storeByte (by simp) _).setReg (by simp) _⟩

/-- Settles O20: XMA stores A and loads it with the byte that was there. -/
theorem xmaResult : Obligations.XmaResult := by
  intro m i s h hw
  obtain ⟨hexec, hptr⟩ := xmaForm_spec h s
  have hnext : exchangeA m s = .next (loadA (s.byteAt (m.ea s)) (s.storeByte (m.ea s) s.a)) :=
    modifyMode_mapped (by simp [hptr]) hw (fun _ => s.a) _
  rw [hexec, hnext, loadA_eq_setReg, NextWith_next, State.byteAt_setNZ8, State.byteAt_setReg, State.byteAt_storeByte,
    if_pos rfl]
  refine ⟨by cases m <;> cases h <;> rfl, rfl, rfl, NZOf8_setNZ8 _ _, rfl,
    ((OnlyChanges.refl ..).storeByte (by simp) _).sameBut (sameBut_setReg_setNZ8 _ .a _)⟩

/-- Settles O30, bit by bit. -/
theorem testAndSetResult : Obligations.TestAndSetResult := by
  intro addr s hw
  constructor
  · have hexec : exec (.tset1 addr) s = modifyMode (.abs addr) (· ||| s.a) (fun v t => t.setNZ8 (s.a - v)) s := rfl
    rw [hexec]
    refine ⟨rfl, (NextWith_testAndModify hw _).imp fun t ⟨hv, hrest⟩ => ⟨fun k => ?_, hrest⟩⟩
    rw [hv, BitVec.getLsbD_or]
  · have hexec : exec (.tclr1 addr) s = modifyMode (.abs addr) (· &&& ~~~s.a) (fun v t => t.setNZ8 (s.a - v)) s := rfl
    rw [hexec]
    refine ⟨rfl, (NextWith_testAndModify hw _).imp fun t ⟨hv, hrest⟩ => ⟨fun k => ?_, hrest⟩⟩
    rw [hv, BitVec.getLsbD_and, BitVec.getLsbD_not]
    by_cases hk : k < 8
    · rw [decide_eq_true hk, Bool.true_and]
    · rw [BitVec.getLsbD_of_ge _ _ (Nat.le_of_not_lt hk), Bool.false_and, Bool.false_and]

/-- Settles O18: TXSP copies X and draws N and Z. -/
theorem txspResult : Obligations.TxspResult := by
  intro s
  have hexec : exec .txsp s = .next ((({ s with sp := s.x } : State).drawFlag .n).drawFlag .z) := rfl
  rw [hexec, NextWith_next]
  exact ⟨rfl, rfl, rfl, (sameBut_txsp s _).onlyChanges _⟩

/-- Settles O42: EI and DI write I; STOP writes STOPPED. -/
theorem interruptEnableAndStop : Obligations.InterruptEnableAndStop := by
  intro s
  have hei : exec .ei s = .next { s.setFlag .i true with iShadow := true } := rfl
  have hdi : exec .di s = .next (s.setFlag .i false) := rfl
  have hstop : exec .stop s = .next { s with stopped := true } := rfl
  rw [hei, hdi, hstop, NextWith_next, NextWith_next, NextWith_next]
  refine ⟨⟨rfl, State.flag_setFlag_same s .i true, rfl, rfl, (sameBut_setFlag s .i true).onlyChanges []⟩,
    ⟨rfl, State.flag_setFlag_same s .i false, ?_, rfl, (sameBut_setFlag s .i false).onlyChanges []⟩, rfl, rfl⟩
  exact requestingSource_none (.inl (State.flag_setFlag_same s .i false))

end Sys2Proof.Proofs
end

section
/-! PROOFS. CBNE and DBNE, jumps, calls, the stack instructions and BRK (R201 to R206, R210, R214 to R217). -/

namespace Sys2Proof.Machine

/-! ### CBNE and DBNE -/

theorem sameBut_drawNZ (s : State) : SameBut s ((s.drawFlag .n).drawFlag .z) [] [.n, .z] :=
  ((SameBut.refl ..).drawFlag (by simp)).drawFlag (by simp)

theorem sameBut_drawNZC (s : State) : SameBut s (((s.drawFlag .n).drawFlag .z).drawFlag .c) [] [.n, .z, .c] :=
  (((SameBut.refl ..).drawFlag (by simp)).drawFlag (by simp)).drawFlag (by simp)

/-- CBNE: its meaning, and that no mode of it reads a pointer. -/
theorem cbneForm_spec {m : Mode} {rel : Byte} {i : Instr} (h : cbneForm m rel = some i) (s : State) :
    exec i s = compareBranch (.mem m) rel s ∧ m.pointerCells s = [] := by
  cases m <;> cases h <;> exact ⟨rfl, rfl⟩

theorem decrementBranch_pc (r rel : Byte) (s : State) :
    (decrementBranch r rel s).pc = if r = 0#8 then s.pc else branchTarget s.pc rel := by
  have hpc : (decrementBranch r rel s).pc = (s.branchIf (r != 0#8) rel).pc := (sameBut_drawNZ _).pc
  rw [hpc, State.branchIf_pc]
  by_cases h : r = 0#8 <;> simp [h]

theorem reg_decrementBranch (v rel : Byte) (s : State) (r : Reg) : (decrementBranch v rel s).reg r = s.reg r := by
  simp [decrementBranch]

theorem OnlyChanges.decrementBranch {s t : State} {regs : List Reg} {cells : List Word}
    (h : OnlyChanges s t regs [.n, .z] cells) (r rel : Byte) :
    OnlyChanges s (decrementBranch r rel t) regs [.n, .z] cells :=
  (h.branchIf _ rel).sameBut (((SameBut.refl ..).drawFlag (by simp)).drawFlag (by simp))

/-! ### Calls -/

theorem stackCell_toNat (sp : Byte) : (stackCell sp).toNat = 256 + sp.toNat := mkWord_toNat ..

/-- A cell outside the stack page is no stack cell (R16). -/
theorem ne_stackCell {a : Word} (h : 512 ≤ a.toNat) (sp : Byte) : a ≠ stackCell sp := by
  intro e
  have hsp := sp.isLt
  rw [e, stackCell_toNat] at h
  omega

/-- The frame of the statements does not speak of PC. -/
theorem OnlyChanges.setPC {s t : State} {regs : List Reg} {flags : List Flag} {cells : List Word}
    (h : OnlyChanges s t regs flags cells) (pc : Word) : OnlyChanges s { t with pc := pc } regs flags cells := by
  obtain ⟨hregs, hrest⟩ := h
  exact ⟨fun r hr => by rw [← hregs r hr]; cases r <;> rfl, hrest⟩

/-- Pushing PC writes the two cells of a call, and SP (R16). -/
theorem OnlyChanges.pushedPC (s : State) :
    OnlyChanges s s.pushedPC [.sp] [] [stackCell s.sp, stackCell (s.sp - 1#8)] := by
  have hlow := (OnlyChanges.refl s [.sp] [] [stackCell s.sp, stackCell (s.sp - 1#8)]).storeByte (a := stackCell s.sp)
    (by simp) (hiByte s.pc)
  have hboth := hlow.storeByte (a := stackCell (s.sp - 1#8)) (by simp) (loByte s.pc)
  exact hboth.setReg (r := .sp) (by simp) (s.sp - 2#8)

/-- The state after a call to a target (R201, R205, R206). -/
def State.called (s : State) (target : Word) : State := { s.pushedPC with pc := target }

/-- A call: PC is the target, the return address is on the stack, and nothing else differs. -/
theorem NextWith_called (s : State) (target : Word) :
    NextWith (.next (s.called target)) fun t =>
      t.pc = target ∧ t.sp = s.sp - 2#8 ∧
        t.byteAt (stackCell s.sp) = hiByte s.pc ∧ t.byteAt (stackCell (s.sp - 1#8)) = loByte s.pc ∧
        OnlyChanges s t [.sp] [] [stackCell s.sp, stackCell (s.sp - 1#8)] := by
  have hne : stackCell s.sp ≠ stackCell (s.sp - 1#8) := stackCell_ne (byte_ne_sub (by decide))
  have hbytes (a : Word) : (s.called target).byteAt a = s.pushedPC.byteAt a := rfl
  rw [NextWith_next, hbytes, hbytes, State.byteAt_pushedPC, State.byteAt_pushedPC, if_neg hne, if_pos rfl, if_pos rfl]
  exact ⟨rfl, rfl, rfl, rfl, (OnlyChanges.pushedPC s).setPC target⟩

theorem callTo_writable {s : State} (h : CanWrite s s.callCells) (target : Word) :
    callTo target s = .next (s.called target) := pushPC_writable h _

/-- The vector of TCALL as a number (R94). -/
theorem tcallVector_eq (n : TableNo) : tcallVector n = BitVec.ofNat 16 (0xFFDE - 2 * n.toNat) := by
  revert n
  decide

/-- A vector lies above the stack page (R94). -/
theorem tcallVector_toNat (n : TableNo) : (tcallVector n).toNat = 0xFFDE - 2 * n.toNat := by
  have hn := n.isLt
  rw [tcallVector_eq, BitVec.toNat_ofNat]
  omega

/-- A pair above the stack page is as before the push of PC. -/
theorem State.wordAt_pushedPC {s : State} {a : Word} (h : 512 ≤ a.toNat) (h' : 512 ≤ (a + 1#16).toNat) :
    s.pushedPC.wordAt a = s.byteAt (a + 1#16) ++ s.byteAt a := by
  rw [State.wordAt, State.byteAt_pushedPC, State.byteAt_pushedPC, if_neg (ne_stackCell h _), if_neg (ne_stackCell h _),
    if_neg (ne_stackCell h' _), if_neg (ne_stackCell h' _)]
  rfl

end Sys2Proof.Machine

/-! ### The statements -/

namespace Sys2Proof.Proofs

open Sys2Proof.Machine

/-- Settles O33: CBNE compares the byte it reads with A and draws N, Z and C. -/
theorem compareBranchResult : Obligations.CompareBranchResult := by
  intro m rel i s h hr
  obtain ⟨hexec, hptr⟩ := cbneForm_spec h s
  have hcells : CanRead s (Src.cells (.mem m) s) := by simp [Src.cells, hptr, hr]
  have hnext : exec i s = .next ((((s.branchIf (s.a != s.byteAt (m.ea s)) rel).drawFlag .n).drawFlag .z).drawFlag .c) :=
    hexec.trans (withSrc_readable hcells _)
  have hdraw := sameBut_drawNZC (s.branchIf (s.a != s.byteAt (m.ea s)) rel)
  rw [hnext, NextWith_next, hdraw.pc, State.branchIf_pc]
  refine ⟨by cases m <;> cases h <;> rfl, by simp only [bne_iff_ne],
    ((OnlyChanges.refl ..).branchIf _ rel).sameBut hdraw⟩

/-- Settles O34: DBNE decrements first, then branches on the result and draws N and Z. -/
theorem decrementBranchResult : Obligations.DecrementBranchResult := by
  intro rel s
  refine ⟨fun dp hw => ⟨rfl, ?_⟩, rfl, ?_⟩
  · have hexec : exec (.dbneDp dp rel) s = .next (decrementBranch (s.byteAt (s.dpAddr dp) - 1#8) rel
        (s.storeByte (s.dpAddr dp) (s.byteAt (s.dpAddr dp) - 1#8))) :=
      modifyMode_mapped (m := .dp dp) (CanRead_nil s) hw (· - 1#8) fun v t => decrementBranch (v - 1#8) rel t
    rw [hexec, NextWith_next, State.byteAt_congr (decrementBranch_mem ..), State.byteAt_storeByte, if_pos rfl,
      decrementBranch_pc]
    exact ⟨toNat_sub_one _, rfl, ((OnlyChanges.refl ..).storeByte (by simp) _).decrementBranch _ rel⟩
  · have hexec : exec (.dbneY rel) s = .next (decrementBranch (s.y - 1#8) rel (s.setReg .y (s.y - 1#8))) := rfl
    have hframe : OnlyChanges s (decrementBranch (s.y - 1#8) rel (s.setReg .y (s.y - 1#8))) [.y] [.n, .z] [] :=
      ((OnlyChanges.refl ..).setReg (by simp) _).decrementBranch _ rel
    have hy : (decrementBranch (s.y - 1#8) rel (s.setReg .y (s.y - 1#8))).y = s.y - 1#8 := reg_decrementBranch _ _ _ .y
    rw [hexec, NextWith_next, hy, decrementBranch_pc]
    exact ⟨toNat_sub_one _, rfl, hframe⟩

/-- Settles O35: each jump is PC taking a word, whatever it was read from. -/
theorem jumpResult : Obligations.JumpResult := by
  intro s
  have hjump (target : Word) : NextWith (.next { s with pc := target }) fun t =>
      t.pc = target ∧ OnlyChanges s t [] [] [] :=
    (NextWith_next ..).mpr ⟨rfl, (OnlyChanges.refl ..).setPC target⟩
  refine ⟨fun addr => ⟨rfl, hjump addr⟩, fun addr hr => ⟨rfl, ?_⟩, fun dp hr => ⟨rfl, ?_⟩⟩
  · have hexec : exec (.jmpIndAbs addr) s = .next { s with pc := s.wordAt addr } :=
      withPair_readable hr fun target => .next { s with pc := target }
    exact hexec ▸ hjump _
  · have hexec : exec (.jmpIndDp dp) s = .next { s with pc := s.dpWord dp } :=
      withDpWord_readable hr fun target => .next { s with pc := target }
    exact hexec ▸ hjump _

/-- Settles O36: each call is `State.called`, the pair of CALL [dp] read before the push. -/
theorem callResult : Obligations.CallResult := by
  intro s hw i target bytes h
  have hspec : encode i = bytes ∧ exec i s = .next (s.called target) := by
    rcases h with ⟨addr, rfl, rfl, rfl⟩ | ⟨dp, rfl, hr, rfl, rfl⟩ | ⟨u, rfl, rfl, rfl⟩
    · exact ⟨rfl, callTo_writable hw _⟩
    · exact ⟨rfl, (withDpWord_readable hr fun target => callTo target s).trans (callTo_writable hw _)⟩
    · exact ⟨rfl, callTo_writable hw _⟩
  obtain ⟨henc, hexec⟩ := hspec
  rw [hexec]
  exact ⟨henc, NextWith_called s target⟩

/-- Settles O37: the vector pair lies above the stack page, so the push does not change it. -/
theorem tableCallResult : Obligations.TableCallResult := by
  intro n s hw hr
  have hn := n.isLt
  have hvector := tcallVector_toNat n
  have hnext : BitVec.ofNat 16 (0xFFDE - 2 * n.toNat + 1) = tcallVector n + 1#16 := by
    rw [tcallVector_eq]
    exact BitVec.ofNat_add ..
  have hexec : exec (.tcall n) s = .next (s.called (s.pushedPC.wordAt (tcallVector n))) := by
    have hpush : exec (.tcall n) s =
        withPair s.pushedPC (tcallVector n) fun target => .next { s.pushedPC with pc := target } :=
      pushPC_writable hw fun t => withPair t (tcallVector n) fun target => .next { t with pc := target }
    rw [hpush, withPair_readable fun a ha => (Readable_congr s.pushedPC_memMap a).mpr (hr a (tcallVector_eq n ▸ ha))]
    rfl
  rw [hexec, hnext, ← tcallVector_eq, ← State.wordAt_pushedPC (by omega) (by rw [BitVec.toNat_add, BitVec.toNat_ofNat]; omega)]
  exact ⟨rfl, NextWith_called s _⟩

end Sys2Proof.Proofs
end

section
/-! PROOFS. The stack instructions and BRK (R210, R214 to R217). -/

namespace Sys2Proof.Machine

/-! ### Pushes and pops -/

/-- A push instruction is its op code and one byte pushed (R215). -/
theorem push_spec {s : State} {i : Instr} {op v : Byte}
    (h : (i, op, v) ∈ [(Instr.pushA, 0x0E#8, s.a), (.pushX, 0x2E#8, s.x), (.pushY, 0x4E#8, s.y),
      (.pushPsw, 0x6E#8, s.psw)]) :
    encode i = [op] ∧ exec i s = push8 s v fun t => .next t := by
  simp only [List.mem_cons, Prod.mk.injEq, List.not_mem_nil, or_false] at h
  rcases h with ⟨rfl, rfl, rfl⟩ | ⟨rfl, rfl, rfl⟩ | ⟨rfl, rfl, rfl⟩ | ⟨rfl, rfl, rfl⟩ <;> exact ⟨rfl, rfl⟩

/-- A pop of A, X or Y is its op code and that register taking the byte above SP (R214). -/
theorem pop_spec {i : Instr} {op : Byte} {r : Reg}
    (h : (i, op, r) ∈ [(Instr.popA, 0x0D#8, Reg.a), (.popX, 0x2D#8, .x), (.popY, 0x4D#8, .y)]) (s : State) :
    encode i = [op] ∧ exec i s = pop8 s fun v t => .next (t.setReg r v) := by
  simp only [List.mem_cons, Prod.mk.injEq, List.not_mem_nil, or_false] at h
  rcases h with ⟨rfl, rfl, rfl⟩ | ⟨rfl, rfl, rfl⟩ | ⟨rfl, rfl, rfl⟩ <;> exact ⟨rfl, rfl⟩

/-- A popped PSW may write every flag (R214, R217). -/
theorem OnlyChanges.setPsw {s t : State} {regs : List Reg} {cells : List Word}
    (h : OnlyChanges s t regs allFlags cells) (p : Byte) (b : Bool) :
    OnlyChanges s { t with psw := p, iShadow := b } regs allFlags cells := by
  obtain ⟨hregs, -, hrest⟩ := h
  refine ⟨fun r hr => ?_, fun f hf => ?_, hrest⟩
  · rw [← hregs r hr]
    cases r <;> rfl
  · exact absurd (by cases f <;> simp [allFlags]) hf

/-- Popping PC writes SP and PC (R216). -/
theorem OnlyChanges.poppedPC {s t : State} {regs : List Reg} {flags : List Flag} {cells : List Word}
    (h : OnlyChanges s t regs flags cells) (hsp : Reg.sp ∈ regs) : OnlyChanges s t.poppedPC regs flags cells :=
  (h.setReg hsp (t.sp + 2#8)).setPC _

/-- The return sequence where its cells can be read (R217). -/
theorem returnFromHandler_readable {s : State}
    (h : CanRead s [stackCell (s.sp + 1#8), stackCell (s.sp + 2#8), stackCell (s.sp + 3#8)]) :
    returnFromHandler s = .next { (s.setReg .sp (s.sp + 1#8)).poppedPC with
      psw := s.byteAt (stackCell (s.sp + 1#8)), iShadow := pswFlag (s.byteAt (stackCell (s.sp + 1#8))) .i } := by
  simp only [CanRead_cons, CanRead_nil, and_true] at h
  obtain ⟨hp, hlo, hhi⟩ := h
  have hpop : CanRead (s.setReg .sp (s.sp + 1#8))
      [stackCell (s.sp + 1#8 + 1#8), stackCell (s.sp + 1#8 + 2#8)] := by
    rw [byte_add_two, byte_add_three, CanRead_cons, CanRead_cons]
    exact ⟨(Readable_congr (s.setReg_memMap ..) _).mpr hlo, (Readable_congr (s.setReg_memMap ..) _).mpr hhi,
      CanRead_nil _⟩
  exact (pop8_readable hp _).trans (popPC_readable hpop _)

/-! ### BRK -/

/-- The three cells of an entry, after it (R235). -/
theorem State.byteAt_entered_cells (s : State) :
    s.entered.byteAt (stackCell s.sp) = hiByte s.pc ∧ s.entered.byteAt (stackCell (s.sp - 1#8)) = loByte s.pc ∧
      s.entered.byteAt (stackCell (s.sp - 2#8)) = s.psw := by
  have h02 : stackCell s.sp ≠ stackCell (s.sp - 2#8) := stackCell_ne (byte_ne_sub (by decide))
  have h01 : stackCell s.sp ≠ stackCell (s.sp - 1#8) := stackCell_ne (byte_ne_sub (by decide))
  have h12 : stackCell (s.sp - 1#8) ≠ stackCell (s.sp - 2#8) := stackCell_ne (byte_sub_ne (by decide))
  simp [State.byteAt_entered, h01, h02, h12]

/-- A pair above the stack page is as before the pushes of an entry. -/
theorem State.wordAt_entered {s : State} {a : Word} (h : 512 ≤ a.toNat) (h' : 512 ≤ (a + 1#16).toNat) :
    s.entered.wordAt a = s.byteAt (a + 1#16) ++ s.byteAt a := by
  simp only [State.wordAt, State.byteAt_entered, if_neg (ne_stackCell h _), if_neg (ne_stackCell h' _)]
  rfl

/-- An entry writes its three cells, SP and I (R235). -/
theorem OnlyChanges.entered {s t : State} {flags : List Flag} (hi : Flag.i ∈ flags)
    (h : OnlyChanges s t [.sp] flags [stackCell s.sp, stackCell (s.sp - 1#8), stackCell (s.sp - 2#8)])
    (hsp : t.sp = s.sp) :
    OnlyChanges s t.entered [.sp] flags [stackCell s.sp, stackCell (s.sp - 1#8), stackCell (s.sp - 2#8)] := by
  have h1 := h.storeByte (a := stackCell t.sp) (by simp [hsp]) (hiByte t.pc)
  have h2 := h1.storeByte (a := stackCell (t.sp - 1#8)) (by simp [hsp]) (loByte t.pc)
  have h3 := h2.storeByte (a := stackCell (t.sp - 2#8)) (by simp [hsp]) t.psw
  exact (h3.setReg (r := .sp) (by simp) (t.sp - 3#8)).setFlag hi false

end Sys2Proof.Machine

/-! ### The statements -/

namespace Sys2Proof.Proofs

open Sys2Proof.Machine

/-- Settles O38: each push is one byte at the stack cell. -/
theorem pushResult : Obligations.PushResult := by
  intro s hw i op v h
  obtain ⟨henc, hexec⟩ := push_spec h
  rw [hexec, push8_writable hw, NextWith_next]
  refine ⟨henc, (State.byteAt_storeByte s ..).trans (if_pos rfl), toNat_sub_one _, rfl, ?_⟩
  exact ((OnlyChanges.refl s [.sp] [] [stackCell s.sp]).storeByte (by simp) v).setReg (r := .sp) (by simp) (s.sp - 1#8)

/-- Settles O39: the byte above SP goes to the register, or to PSW. -/
theorem popResult : Obligations.PopResult := by
  intro s hr
  have hframe (regs : List Reg) (flags : List Flag) (h : Reg.sp ∈ regs) :
      OnlyChanges s (s.setReg .sp (s.sp + 1#8)) regs flags [] := (OnlyChanges.refl ..).setReg h _
  refine ⟨fun i op r h => ?_, rfl, ?_⟩
  · obtain ⟨henc, hexec⟩ := pop_spec h s
    have hr' : r ≠ .sp := by
      rintro rfl
      simp at h
    have hsp (v : Byte) : ((s.setReg .sp (s.sp + 1#8)).setReg r v).sp = s.sp + 1#8 :=
      (State.reg_setReg _ r .sp v).trans (if_neg hr')
    have hnext : exec i s = .next ((s.setReg .sp (s.sp + 1#8)).setReg r (s.byteAt (stackCell (s.sp + 1#8)))) :=
      hexec.trans (pop8_readable hr _)
    rw [hnext, NextWith_next, hsp]
    exact ⟨henc, State.reg_setReg_same .., BitVec.toNat_add .., by simp,
      (hframe [r, .sp] [] (by simp)).setReg (by simp) _⟩
  · have hexec : exec .popPsw s = .next { s.setReg .sp (s.sp + 1#8) with
        psw := s.byteAt (stackCell (s.sp + 1#8)), iShadow := pswFlag (s.byteAt (stackCell (s.sp + 1#8))) .i } :=
      pop8_readable hr fun v t => .next { t with psw := v, iShadow := pswFlag v .i }
    rw [hexec, NextWith_next]
    exact ⟨rfl, rfl, BitVec.toNat_add .., rfl, (hframe [.sp] allFlags (by simp)).setPsw _ _⟩

/-- Settles O40: RET pops PC, RETI pops PSW first. -/
theorem returnResult : Obligations.ReturnResult := by
  intro s
  refine ⟨fun hr => ⟨rfl, ?_⟩, fun hr => ⟨rfl, ?_⟩⟩
  · have hexec : exec .ret s = .next s.poppedPC := popPC_readable hr fun t => .next t
    rw [hexec, NextWith_next]
    exact ⟨rfl, rfl, (OnlyChanges.refl ..).poppedPC (by simp)⟩
  · have hexec : exec .reti s = .next { (s.setReg .sp (s.sp + 1#8)).poppedPC with
        psw := s.byteAt (stackCell (s.sp + 1#8)), iShadow := pswFlag (s.byteAt (stackCell (s.sp + 1#8))) .i } :=
      returnFromHandler_readable hr
    have hpc : (s.setReg .sp (s.sp + 1#8)).poppedPC.pc =
        mkWord (s.byteAt (stackCell (s.sp + 1#8 + 2#8))) (s.byteAt (stackCell (s.sp + 1#8 + 1#8))) := rfl
    rw [byte_add_two, byte_add_three] at hpc
    rw [hexec, NextWith_next]
    exact ⟨rfl, rfl, hpc, byte_add_three s.sp,
      (((OnlyChanges.refl s [.sp] allFlags []).setReg (by simp) _).poppedPC (by simp)).setPsw _ _⟩

/-- Settles O41: BRK is the entry sequence after B is set, and its vector lies above the stack page. -/
theorem brkEntry : Obligations.BrkEntry := by
  intro s hw hr
  have hexec : exec .brk s =
      .next { (s.setFlag .b true).entered with pc := (s.setFlag .b true).entered.wordAt 0xFFDE } :=
    enterHandler_mapped (s := s.setFlag .b true) (ack := fun t => t) (fun _ => rfl) hw hr
  obtain ⟨hhi, hlo, hpsw⟩ := (s.setFlag .b true).byteAt_entered_cells
  have hflag (f : Flag) :
      ({ (s.setFlag .b true).entered with pc := (s.setFlag .b true).entered.wordAt 0xFFDE } : State).flag f =
        if f = .i then false else (s.setFlag .b true).flag f := State.flag_entered _ f
  have hframe : OnlyChanges s (s.setFlag .b true) [.sp] [.b, .i]
      [stackCell s.sp, stackCell (s.sp - 1#8), stackCell (s.sp - 2#8)] := (OnlyChanges.refl ..).setFlag (by simp) true
  rw [hexec, NextWith_next, hflag, hflag]
  refine ⟨rfl, hhi, hlo, fun f => ?_, State.entered_sp _, State.flag_setFlag_same .., rfl, ?_,
    (hframe.entered (by simp) rfl).setPC _⟩
  · calc _ = pswFlag (s.setFlag .b true).psw f := congrArg (pswFlag · f) hpsw
      _ = if .b = f then true else s.flag f := State.flag_setFlag s .b f true
      _ = _ := by simp only [eq_comm]
  · exact State.wordAt_entered (by decide) (by decide)

end Sys2Proof.Proofs
end

section
/-! PROOFS. The effective addresses and the manual's encodings (R16, R36, R72 to R83). -/

namespace Sys2Proof.Machine

theorem zext16_toNat (v : Byte) : (zext16 v).toNat = v.toNat := by
  have hv := v.isLt
  exact (BitVec.toNat_setWidth 16 v).trans (Nat.mod_eq_of_lt (by omega))

/-- A direct-page pointer as a number, its low byte first (R36). -/
theorem State.dpWord_toNat (s : State) (off : Byte) :
    (s.dpWord off).toNat = (s.byteAt (s.dpAddr off)).toNat + 256 * (s.byteAt (s.dpAddrHi off)).toNat := by
  rw [State.dpWord, mkWord_toNat, Nat.add_comm]

/-- Below offset `FFh` the high byte of a direct-page pair is at the next address (R36). -/
theorem State.dpAddrHi_toNat (s : State) {off : Byte} (h : off ≠ 255#8) :
    (s.dpAddrHi off).toNat = (if s.flag .g then 256 else 0) + off.toNat + 1 := by
  have hlt : off.toNat < 255 := by
    have hoff := off.isLt
    have hne : off.toNat ≠ 255 := fun e => h (BitVec.eq_of_toNat_eq e)
    omega
  have hnext : (off + 1#8).toNat = off.toNat + 1 := (BitVec.toNat_add ..).trans (Nat.mod_eq_of_lt (by rw [BitVec.toNat_ofNat]; omega))
  rw [s.dpAddrHi_of_ne h, State.dpAddr_toNat, hnext, Nat.add_assoc]

/-- Adding an index to a word (R78, R83). -/
theorem add_zext16_toNat (w : Word) (v : Byte) : (w + zext16 v).toNat = (w.toNat + v.toNat) % 65536 := by
  rw [BitVec.toNat_add, zext16_toNat]

end Sys2Proof.Machine

/-! ### The statements -/

namespace Sys2Proof.Proofs

open Sys2Proof.Machine

/-- Settles O56: each effective address as a number, from `State.dpAddr_toNat` and `State.dpWord_toNat`. -/
theorem effectiveAddresses : Obligations.EffectiveAddresses := by
  constructor
  · cases h : Config.pairWrap with
    | inPage => exact .inl fun s => by simp [State.dpAddrHi, h]
    | linear => exact .inr fun s => by simp [State.dpAddrHi, h]
  · intro s page pointer
    have hdp (off : Byte) : (s.dpAddr off).toNat = page + off.toNat := s.dpAddr_toNat off
    have hpointer (off : Byte) : (s.dpWord off).toNat = pointer off := s.dpWord_toNat off
    refine ⟨hdp, fun off h => s.dpAddrHi_toNat h, hdp, fun d => ?_, fun d => ?_, hdp s.x, fun _ => rfl,
      fun w => add_zext16_toNat w s.y, fun d => ?_, fun d => ?_, stackCell_toNat⟩
    · exact (hdp _).trans (congrArg (page + ·) (BitVec.toNat_add ..))
    · exact (hdp _).trans (congrArg (page + ·) (BitVec.toNat_add ..))
    · rw [Mode.ea, hpointer, BitVec.ofNat_add, BitVec.ofNat_toNat, BitVec.ofNat_toNat, BitVec.setWidth_eq,
        BitVec.setWidth_eq]
    · rw [Mode.ea, add_zext16_toNat, hpointer]

/-- Settles O57, by decoding each of the sequences. -/
theorem sourcedEncodings : Obligations.SourcedEncodings := by
  refine fun bs i h => (?_ : ∀ p ∈ _, decode p.1 = .ok (p.2, [])) (bs, i) h
  iterate 23 refine List.forall_mem_cons.mpr ⟨rfl, ?_⟩
  exact List.forall_mem_nil _

end Sys2Proof.Proofs
end
